-- ==== Sys2Proof/Word.lean ====
section
/-! DEFINITION. The two bit-vector types of the machine: the 16-bit word (spec R6, R9) and the
4-bit register field of an instruction word (R71). -/

namespace Sys2Proof

/-- A 16-bit pattern: a general register, PR, SP, a memory word, an address, an operand (R6). -/
abbrev Word := BitVec 16

/-- A 4-bit register field of an instruction word; only the values 0 to 7 name a register (R26). -/
abbrev RegField := BitVec 4

end Sys2Proof
end

