-- ==== Sys2Proof/Machine/Bits.lean ====
section
/-! DEFINITION. The integer readings of a 16-bit pattern and the bit selector (spec R10). -/

namespace Sys2Proof.Machine

/-- `u16(v)`: the pattern as an unsigned integer, 0 to 65535 (R10). -/
def u16 (v : Word) : Int := v.toNat

/-- `s16(v)`: the pattern as a two's-complement integer, -32768 to 32767 (R10). -/
def s16 (v : Word) : Int := if v.msb then (v.toNat : Int) - 65536 else v.toNat

/-- `trunc16(n)`: the pattern whose unsigned value is `n` modulo 65536 (R10). -/
def trunc16 (n : Int) : Word := BitVec.ofInt 16 n

/-- `bit(v, i)`: bit `i` for `i` in 0 to 15, and 0 for every other integer (R10, R155). -/
def bitAt (v : Word) (i : Int) : Bool :=
  if 0 ≤ i ∧ i ≤ 15 then v.getLsbD i.toNat else false

end Sys2Proof.Machine
end

