-- ==== Sys2Proof/Config.lean ====
section
/-! DEFINITION. What is fixed for the machine: the parameters of spec R6 that are no state, and the
values the model chooses where the spec leaves the reset state open (R44, decision D12). -/

namespace Sys2Proof.Config

/-- Number of memory words; the addresses are 0 to 65535 (R6, R50). -/
def memWords : Nat := 65536

/-- What a memory word reads as that nothing has written since reset.
DESIGN CHOICE, unsafe: the spec says "unspecified" (R44, U2); log 2. -/
def unwrittenWord : Word := 0

/-- GR0 to GR7 after reset. DESIGN CHOICE, unsafe: the spec says "unspecified" (R44); log 3. -/
def resetRegister : Word := 0

/-- PR after reset. DESIGN CHOICE, unsafe: there is no reset vector (R44, R230); log 4. -/
def resetProgramRegister : Word := 0

/-- SP after reset. DESIGN CHOICE, unsafe: the spec says "unspecified" (R44); log 5. -/
def resetStackPointer : Word := 0

/-- OF, SF and ZF after reset. DESIGN CHOICE, unsafe: the spec says "unspecified" (R44); log 6. -/
def resetFlag : Bool := false

end Sys2Proof.Config
end

