-- ==== Sys2Proof/Machine/State.lean ====
section
/-! DEFINITION. The architectural state (spec R20), the two fatal conditions (R200), the model's
refusals, and the state after reset (R44, R45). -/

namespace Sys2Proof.Machine

/-- The flag register FR: overflow, sign, zero, each a single bit (R35). -/
structure Flags where
  of : Bool
  sf : Bool
  zf : Bool
  deriving DecidableEq, Repr

/-- A sparse table of words under natural-number keys, in rising order of the keys. -/
abbrev Cells := List (Nat × Word)

/-- Memory: the words that differ from what an unwritten word reads as, under their word addresses
(R50, R53; DESIGN CHOICE, log 1 and log 2). -/
abbrev Memory := Cells

/-- The trap table: the entries the host configured, under their trap numbers (R40; log 7). -/
abbrev TrapTable := Cells

/-- The keys rise strictly, so no key occurs twice. -/
abbrev Cells.sorted (m : Cells) : Prop := m.Pairwise fun c d => c.1 < d.1

/-- The canonical form of memory: rising addresses below 65536, and no entry that an unlisted
address would read as anyway, so that equal memories are equal data (log 1). -/
abbrev Memory.wf (m : Memory) : Prop :=
  Cells.sorted m ∧ ∀ c ∈ m, c.1 < Config.memWords ∧ c.2 ≠ Config.unwrittenWord

/-- The canonical form of the trap table: rising trap numbers below 65536 (log 7). -/
abbrev TrapTable.wf (t : TrapTable) : Prop :=
  Cells.sorted t ∧ ∀ c ∈ t, c.1 < 65536

/-- The complete architectural state of the block (R20). -/
structure State where
  /-- `GR[0]` to `GR[7]` (R21). -/
  gr : Vector Word 8
  /-- The program register PR (R27). -/
  pr : Word
  /-- The stack pointer SP (R32). -/
  sp : Word
  /-- The flag register FR (R35). -/
  fr : Flags
  /-- Memory (R50). -/
  mem : Memory
  /-- The trap table TRAP (R40). -/
  traps : TrapTable
  deriving DecidableEq, Repr

/-- The two fatal conditions of the block (R200). A step that ends in one commits
nothing (R203; log 10). -/
inductive Fault where
  /-- The fetched word `w` has an unmapped opcode (R202). Raised by the step at dispatch. Safe: it is
  the outcome the spec gives. -/
  | illegalInstruction (w : Word)
  /-- An SVC addressed trap number `n`, which the trap table lacks (R204). Raised by SVC only. Safe:
  it is the outcome the spec gives. -/
  | trapMiss (n : Word)
  deriving DecidableEq, Repr

/-- Why the model gives no meaning. -/
inductive Refusal where
  /-- An instruction not modelled yet. Raised by an arm of `exec` only; no arm does. Safe. -/
  | notModelled (mnemonic : String)
  /-- A register field the instruction uses holds 8 to 15, a reserved encoding (R82, U1; log 9).
  Raised by the decoder and by every meaning that uses a register field. Safe. -/
  | reservedRegisterField (f : RegField)
  /-- The host named a register outside GR0 to GR7 (R234, decision D15; log 17). Raised by the host
  operations on registers only, never by a step. Safe. -/
  | noSuchRegister (i : Nat)
  deriving DecidableEq, Repr

/-- The outcome of a step or of a host operation that may be refused. -/
abbrev Outcome := Host.Outcome State Fault Refusal

/-- The machine right after reset (R44, R45, R230): the trap table empty, which the spec states;
everything else "unspecified" in the spec and fixed here by `Config` (DESIGN CHOICE, unsafe; log 2 to
log 6). -/
def State.reset : State where
  gr := Vector.replicate 8 Config.resetRegister
  pr := Config.resetProgramRegister
  sp := Config.resetStackPointer
  fr := { of := Config.resetFlag, sf := Config.resetFlag, zf := Config.resetFlag }
  mem := []
  traps := []

end Sys2Proof.Machine
end

