-- ==== Sys2Proof/Machine/Flags.lean ====
section
/-! DEFINITION. The ALU with flags: every result and flag computation the spec gives (R110, R111,
R130, R140, R150 to R155). Each operation answers the result word and all three flags, because a
flag-writing instruction writes all three (R36). -/

namespace Sys2Proof.Machine

/-- The flags that go with a result `y`: the overflow flag given, and `SZ(y)` (R11, R35). -/
def flagsOf (overflow : Bool) (y : Word) : Flags :=
  { of := overflow, sf := y.msb, zf := decide (y = 0) }

/-- The result truncated from the exact integer `t`, with the overflow flag given (R110, R111). -/
def narrow (t : Int) (overflow : Bool) : Word × Flags :=
  (trunc16 t, flagsOf overflow (trunc16 t))

/-- The exact integer lies outside the signed range (R110). -/
def outsideSigned (t : Int) : Bool := decide (t < -32768 ∨ 32767 < t)

/-- Signed add (R110). -/
def addA (a b : Word) : Word × Flags :=
  let t := s16 a + s16 b
  narrow t (outsideSigned t)

/-- Signed subtract, left minus right (R110). -/
def subA (a b : Word) : Word × Flags :=
  let t := s16 a - s16 b
  narrow t (outsideSigned t)

/-- Unsigned add; overflow is the carry out (R111). -/
def addL (a b : Word) : Word × Flags :=
  let t := u16 a + u16 b
  narrow t (decide (65535 < t))

/-- Unsigned subtract, left minus right; overflow is the borrow (R111). -/
def subL (a b : Word) : Word × Flags :=
  let t := u16 a - u16 b
  narrow t (decide (t < 0))

/-- A result that clears OF and sets SF and ZF: logic and the register move (R103, R130). -/
def clearing (y : Word) : Word × Flags := (y, flagsOf false y)

/-- Bitwise AND (R130). -/
def logicAnd (a b : Word) : Word × Flags := clearing (a &&& b)

/-- Bitwise OR (R130). -/
def logicOr (a b : Word) : Word × Flags := clearing (a ||| b)

/-- Bitwise exclusive OR (R130). -/
def logicXor (a b : Word) : Word × Flags := clearing (a ^^^ b)

/-- Signed compare: SF is the true order, not the sign of a difference (R140). -/
def cmpA (a b : Word) : Flags :=
  { of := false, sf := decide (s16 a < s16 b), zf := decide (a = b) }

/-- Unsigned compare (R140). -/
def cmpL (a b : Word) : Flags :=
  { of := false, sf := decide (u16 a < u16 b), zf := decide (a = b) }

/-- Left shift with zeros entering at bit 0; 0 for a count of 16 or more (R150, R155; log 11). -/
def shl (v : Word) (n : Nat) : Word := v <<< n

/-- Right shift with zeros entering at bit 15; 0 for a count of 16 or more (R150, R155; log 11). -/
def shr (v : Word) (n : Nat) : Word := v >>> n

/-- SLA: the unsigned left shift; OF is bit `15 - n` unless the count is 0 (R151). -/
def shiftLeftA (v : Word) (n : Nat) : Word × Flags :=
  (shl v n, flagsOf (n != 0 && bitAt v (15 - n)) (shl v n))

/-- SRA: the unsigned right shift; OF is bit `n - 1` unless the count is 0 (R152). -/
def shiftRightA (v : Word) (n : Nat) : Word × Flags :=
  (shr v n, flagsOf (n != 0 && bitAt v (n - 1)) (shr v n))

/-- SLL: OF is bit 15 before the shift, whatever the count (R153; log 12). -/
def shiftLeftL (v : Word) (n : Nat) : Word × Flags :=
  (shl v n, flagsOf (bitAt v 15) (shl v n))

/-- SRL: OF is bit 0 before the shift, whatever the count (R154; log 12). -/
def shiftRightL (v : Word) (n : Nat) : Word × Flags :=
  (shr v n, flagsOf (bitAt v 0) (shr v n))

/-- FR as a 3-bit number for the host: OF, SF, ZF from bit 2 down (R38; log 20). -/
def packFlags (f : Flags) : BitVec 3 :=
  BitVec.ofBool f.of ++ BitVec.ofBool f.sf ++ BitVec.ofBool f.zf

end Sys2Proof.Machine
end

