-- ==== Sys2Proof/Syntax.lean ====
section
/-! DEFINITION. The instructions: one constructor for each of the 38 rows of the opcode table
(spec R80). A constructor carries the fields its format uses (R72): `r`, `r1`, `r2`, `x` as the
4-bit fields of the first word, `adr` as the second word. Fields the format ignores (R73) are not
part of the instruction. -/

namespace Sys2Proof

/-- An instruction of the opcode map (R80), operands in the order of the spec's notation (R89). -/
inductive Instr where
  | nop
  | ld (r : RegField) (adr : Word) (x : RegField)
  | st (r : RegField) (adr : Word) (x : RegField)
  | lad (r : RegField) (adr : Word) (x : RegField)
  | ldRR (r1 r2 : RegField)
  | adda (r : RegField) (adr : Word) (x : RegField)
  | suba (r : RegField) (adr : Word) (x : RegField)
  | addl (r : RegField) (adr : Word) (x : RegField)
  | subl (r : RegField) (adr : Word) (x : RegField)
  | addaRR (r1 r2 : RegField)
  | subaRR (r1 r2 : RegField)
  | addlRR (r1 r2 : RegField)
  | sublRR (r1 r2 : RegField)
  | and (r : RegField) (adr : Word) (x : RegField)
  | or (r : RegField) (adr : Word) (x : RegField)
  | xor (r : RegField) (adr : Word) (x : RegField)
  | andRR (r1 r2 : RegField)
  | orRR (r1 r2 : RegField)
  | xorRR (r1 r2 : RegField)
  | cpa (r : RegField) (adr : Word) (x : RegField)
  | cpl (r : RegField) (adr : Word) (x : RegField)
  | cpaRR (r1 r2 : RegField)
  | cplRR (r1 r2 : RegField)
  | sla (r : RegField) (adr : Word) (x : RegField)
  | sra (r : RegField) (adr : Word) (x : RegField)
  | sll (r : RegField) (adr : Word) (x : RegField)
  | srl (r : RegField) (adr : Word) (x : RegField)
  | jmi (adr : Word) (x : RegField)
  | jnz (adr : Word) (x : RegField)
  | jze (adr : Word) (x : RegField)
  | jump (adr : Word) (x : RegField)
  | jpl (adr : Word) (x : RegField)
  | jov (adr : Word) (x : RegField)
  | push (adr : Word) (x : RegField)
  | pop (r : RegField)
  | call (adr : Word) (x : RegField)
  | ret
  | svc (adr : Word) (x : RegField)
  deriving DecidableEq, Repr

end Sys2Proof
end

