-- ==== Sys2Proof/WellFormed.lean ====
section
/-! DEFINITION. Which instructions the spec gives a meaning: every register field the instruction
uses must name one of GR0 to GR7 (spec R26, R82). The other values are reserved, and the model
refuses them (U1, decision D8, log 9). -/

namespace Sys2Proof

/-- The field names a general register: its value is 0 to 7 (R26). -/
abbrev namesRegister (f : RegField) : Prop := f.toNat < 8

/-- The register fields an instruction uses, `r` before `x` and `r1` before `r2` (R82). -/
def Instr.usedFields : Instr → List RegField
  | .nop | .ret => []
  | .pop r => [r]
  | .ldRR r1 r2 | .addaRR r1 r2 | .subaRR r1 r2 | .addlRR r1 r2 | .sublRR r1 r2
  | .andRR r1 r2 | .orRR r1 r2 | .xorRR r1 r2 | .cpaRR r1 r2 | .cplRR r1 r2 => [r1, r2]
  | .ld r _ x | .st r _ x | .lad r _ x
  | .adda r _ x | .suba r _ x | .addl r _ x | .subl r _ x
  | .and r _ x | .or r _ x | .xor r _ x | .cpa r _ x | .cpl r _ x
  | .sla r _ x | .sra r _ x | .sll r _ x | .srl r _ x => [r, x]
  | .jmi _ x | .jnz _ x | .jze _ x | .jump _ x | .jpl _ x | .jov _ x
  | .push _ x | .call _ x | .svc _ x => [x]

/-- The first of the given fields that names no register. -/
def firstReserved (fs : List RegField) : Option RegField :=
  fs.find? fun f => !decide (namesRegister f)

/-- No used register field is reserved (R82). -/
abbrev Instr.WellFormed (i : Instr) : Prop := firstReserved i.usedFields = none

end Sys2Proof
end

