-- ==== Sys2Proof/Machine/Ops.lean ====
section
/-! DEFINITION. The named operations over memory, the trap table, the registers and the stack (spec
R29, R33, R51, R191), the entry to a subroutine or trap and the return from it (R182, R183, R207,
R208), and the fatal outcomes (R200). -/

namespace Sys2Proof.Machine

/-- The word listed under a key, if one is. -/
def Cells.lookup : Cells → Nat → Option Word
  | [], _ => none
  | c :: rest, k => if c.1 = k then some c.2 else Cells.lookup rest k

/-- The table without the key. -/
def Cells.remove (m : Cells) (k : Nat) : Cells := m.filter fun c => c.1 != k

/-- Lists `v` under `k` before the first greater key. -/
def Cells.place (k : Nat) (v : Word) : Cells → Cells
  | [] => [(k, v)]
  | c :: rest => if k < c.1 then (k, v) :: c :: rest else c :: Cells.place k v rest

/-- Lists `v` under `k` in place of whatever stood there. -/
def Cells.put (m : Cells) (k : Nat) (v : Word) : Cells := Cells.place k v (Cells.remove m k)

/-- `MemRead`: the word at an address; it cannot fail (R51). -/
def Memory.read (m : Memory) (a : Word) : Word :=
  (Cells.lookup m a.toNat).getD Config.unwrittenWord

/-- `MemWrite`: changes exactly one word; it cannot fail (R51). Writing what an unlisted address
reads as removes the entry, which keeps the canonical form. -/
def Memory.write (m : Memory) (a v : Word) : Memory :=
  if v = Config.unwrittenWord then Cells.remove m a.toNat else Cells.put m a.toNat v

/-- `TRAP(n)`: the target configured for trap number `n`, by exact match on all 16 bits (R191). -/
def TrapTable.target (t : TrapTable) (n : Word) : Option Word := Cells.lookup t n.toNat

/-- Configures the target for trap number `n`, replacing any earlier entry (R240). -/
def TrapTable.set (t : TrapTable) (n target : Word) : TrapTable := Cells.put t n.toNat target

/-- The general register a field names (R21). A field of 8 to 15 names none: meanings refuse it before
they read, so the 0 given here is never used (log 9). -/
def State.reg (s : State) (f : RegField) : Word := s.gr[f.toNat]?.getD 0

/-- Writes the general register a field names, and nothing for a field that names none. -/
def State.setReg (s : State) (f : RegField) (v : Word) : State :=
  { s with gr := s.gr.setIfInBounds f.toNat v }

/-- Writes all three flags (R36). -/
def State.setFlags (s : State) (f : Flags) : State := { s with fr := f }

/-- Writes a result and all three flags: what an ALU instruction does with its answer. -/
def State.writeResult (s : State) (f : RegField) (res : Word × Flags) : State :=
  (s.setReg f res.1).setFlags res.2

/-- PR past `n` instruction words, modulo 65536 (R28, R29). -/
def State.advance (s : State) (n : Nat) : State := { s with pr := s.pr + BitVec.ofNat 16 n }

/-- `PR <- t` (R31). -/
def State.jumpTo (s : State) (t : Word) : State := { s with pr := t }

/-- Reads the memory word at an address (R51). -/
def State.load (s : State) (a : Word) : Word := Memory.read s.mem a

/-- Stores a memory word (R51). -/
def State.store (s : State) (a v : Word) : State := { s with mem := Memory.write s.mem a v }

/-- Writes SP (R34). -/
def State.setSp (s : State) (v : Word) : State := { s with sp := v }

/-- `push(v)`: SP down by one modulo 65536, then `v` at the new SP (R33). -/
def State.push (s : State) (v : Word) : State := (s.setSp (s.sp - 1)).store (s.sp - 1) v

/-- What `pop()` answers: the word at SP (R33). -/
def State.top (s : State) : Word := s.load s.sp

/-- What `pop()` does to the state: SP up by one modulo 65536 (R33). -/
def State.dropTop (s : State) : State := s.setSp (s.sp + 1)

/-- Entry to a subroutine or to a trap service: pushes PR, the return address, and goes to `t`. CALL,
an SVC that hits and the host's call-in all do this ("exactly like CALL": R182, R190, R207, R238). The
caller has advanced PR past its own words. -/
def State.enter (s : State) (t : Word) : State := (s.push s.pr).jumpTo t

/-- The return from a subroutine or a trap service: pops PR and restores nothing else (R183, R208). -/
def State.leave (s : State) : State := s.dropTop.jumpTo s.top

/-- `raise TrapMiss(n)`: the fatal outcome, no effect on the state (R203, R204). -/
def raiseTrapMiss (n : Word) : Outcome := .fault (.trapMiss n)

/-- `raise IllegalInstruction(w)`: the fatal outcome, no effect on the state (R202, R203). -/
def raiseIllegal (w : Word) : Outcome := .fault (.illegalInstruction w)

/-- A supervisor call for trap number `n`, PR already past the SVC's words: enters the configured
service, or raises TrapMiss when there is none (R190, R191). -/
def State.takeTrap (s : State) (n : Word) : Outcome :=
  match TrapTable.target s.traps n with
  | some t => .next (s.enter t)
  | none => raiseTrapMiss n

/-- Refuses a reserved register field among those the instruction uses, before anything else
happens (R82, R205; log 9); otherwise answers `out`. -/
def checkFields (fs : List RegField) (out : Outcome) : Outcome :=
  match firstReserved fs with
  | some f => .refused (.reservedRegisterField f)
  | none => out

end Sys2Proof.Machine
end

