-- ==== Sys2Proof/Machine/Operands.lean ====
section
/-! DEFINITION. Operand resolution (spec R75 to R79). The second word `adr` is an operand of the
instruction, read by the fetch at the address after the first word (log 18); the registers read are
those at the start of the step (R25). -/

namespace Sys2Proof.Machine

/-- `applyIndex`: adds `GR[x]` modulo 65536 unless `x` is 0, which means no index (R23, R76). -/
def State.applyIndex (s : State) (adr : Word) (x : RegField) : Word :=
  if x = 0 then adr else adr + s.reg x

/-- `EA_addr(x)`: the effective address (R78). -/
def State.effAddr (s : State) (adr : Word) (x : RegField) : Word := s.applyIndex adr x

/-- `EA_val(x)`: the memory word at the effective address, one level of indirection only (R77,
R78). -/
def State.effVal (s : State) (adr : Word) (x : RegField) : Word := s.load (s.effAddr adr x)

/-- The shift count: the whole effective address as an unsigned number (R150). -/
def State.shiftCount (s : State) (adr : Word) (x : RegField) : Nat := (s.effAddr adr x).toNat

end Sys2Proof.Machine
end

