-- ==== Sys2Proof/Machine/Arithmetic.lean ====
section
/-! DEFINITION. Add and subtract, signed and unsigned, with a memory operand and with a register operand
(spec R110 to R119). -/

namespace Sys2Proof.Machine

/-- ADDA r,adr,x: signed add from memory (R112). -/
def execAdda (r : RegField) (adr : Word) (x : RegField) (s : State) : Outcome :=
  checkFields [r, x] (.next ((s.advance 2).writeResult r (addA (s.reg r) (s.effVal adr x))))

/-- SUBA r,adr,x: signed subtract from memory (R113). -/
def execSuba (r : RegField) (adr : Word) (x : RegField) (s : State) : Outcome :=
  checkFields [r, x] (.next ((s.advance 2).writeResult r (subA (s.reg r) (s.effVal adr x))))

/-- ADDL r,adr,x: unsigned add from memory (R114). -/
def execAddl (r : RegField) (adr : Word) (x : RegField) (s : State) : Outcome :=
  checkFields [r, x] (.next ((s.advance 2).writeResult r (addL (s.reg r) (s.effVal adr x))))

/-- SUBL r,adr,x: unsigned subtract from memory (R115). -/
def execSubl (r : RegField) (adr : Word) (x : RegField) (s : State) : Outcome :=
  checkFields [r, x] (.next ((s.advance 2).writeResult r (subL (s.reg r) (s.effVal adr x))))

/-- ADDA r1,r2: signed add of registers (R116). -/
def execAddaRR (r1 r2 : RegField) (s : State) : Outcome :=
  checkFields [r1, r2] (.next ((s.advance 1).writeResult r1 (addA (s.reg r1) (s.reg r2))))

/-- SUBA r1,r2: signed subtract of registers (R117). -/
def execSubaRR (r1 r2 : RegField) (s : State) : Outcome :=
  checkFields [r1, r2] (.next ((s.advance 1).writeResult r1 (subA (s.reg r1) (s.reg r2))))

/-- ADDL r1,r2: unsigned add of registers (R118). -/
def execAddlRR (r1 r2 : RegField) (s : State) : Outcome :=
  checkFields [r1, r2] (.next ((s.advance 1).writeResult r1 (addL (s.reg r1) (s.reg r2))))

/-- SUBL r1,r2: unsigned subtract of registers (R119). -/
def execSublRR (r1 r2 : RegField) (s : State) : Outcome :=
  checkFields [r1, r2] (.next ((s.advance 1).writeResult r1 (subL (s.reg r1) (s.reg r2))))

end Sys2Proof.Machine
end

