-- ==== Sys2Proof/Machine/Compare.lean ====
section
/-! DEFINITION. Compare, signed and unsigned: only PR and the flags change (spec R140 to R144). -/

namespace Sys2Proof.Machine

/-- CPA r,adr,x: signed compare with memory (R141). -/
def execCpa (r : RegField) (adr : Word) (x : RegField) (s : State) : Outcome :=
  checkFields [r, x] (.next ((s.advance 2).setFlags (cmpA (s.reg r) (s.effVal adr x))))

/-- CPL r,adr,x: unsigned compare with memory (R142). -/
def execCpl (r : RegField) (adr : Word) (x : RegField) (s : State) : Outcome :=
  checkFields [r, x] (.next ((s.advance 2).setFlags (cmpL (s.reg r) (s.effVal adr x))))

/-- CPA r1,r2: signed compare of registers (R143). -/
def execCpaRR (r1 r2 : RegField) (s : State) : Outcome :=
  checkFields [r1, r2] (.next ((s.advance 1).setFlags (cmpA (s.reg r1) (s.reg r2))))

/-- CPL r1,r2: unsigned compare of registers (R144). -/
def execCplRR (r1 r2 : RegField) (s : State) : Outcome :=
  checkFields [r1, r2] (.next ((s.advance 1).setFlags (cmpL (s.reg r1) (s.reg r2))))

end Sys2Proof.Machine
end

