-- ==== Sys2Proof/Machine/Jump.lean ====
section
/-! DEFINITION. The six jumps (spec R170 to R177). -/

namespace Sys2Proof.Machine

/-- A jump: PR goes to the effective address when the condition holds, and otherwise past both words;
the operand is resolved either way (R170). -/
def State.jumpWhen (s : State) (cond : Bool) (adr : Word) (x : RegField) : State :=
  if cond then (s.advance 2).jumpTo (s.effAddr adr x) else s.advance 2

/-- JMI adr,x: jump on minus, SF = 1 (R171). -/
def execJmi (adr : Word) (x : RegField) (s : State) : Outcome :=
  checkFields [x] (.next (s.jumpWhen s.fr.sf adr x))

/-- JNZ adr,x: jump on non-zero, ZF = 0 (R172). -/
def execJnz (adr : Word) (x : RegField) (s : State) : Outcome :=
  checkFields [x] (.next (s.jumpWhen (!s.fr.zf) adr x))

/-- JZE adr,x: jump on zero, ZF = 1 (R173). -/
def execJze (adr : Word) (x : RegField) (s : State) : Outcome :=
  checkFields [x] (.next (s.jumpWhen s.fr.zf adr x))

/-- JUMP adr,x: jump always (R174). -/
def execJump (adr : Word) (x : RegField) (s : State) : Outcome :=
  checkFields [x] (.next (s.jumpWhen true adr x))

/-- JPL adr,x: jump on plus, SF = 0 and ZF = 0 (R175). -/
def execJpl (adr : Word) (x : RegField) (s : State) : Outcome :=
  checkFields [x] (.next (s.jumpWhen (!s.fr.sf && !s.fr.zf) adr x))

/-- JOV adr,x: jump on overflow, OF = 1 (R176). -/
def execJov (adr : Word) (x : RegField) (s : State) : Outcome :=
  checkFields [x] (.next (s.jumpWhen s.fr.of adr x))

end Sys2Proof.Machine
end

