-- ==== Sys2Proof/Machine/LoadStore.lean ====
section
/-! DEFINITION. NOP, load, load address, store (spec R100 to R104). -/

namespace Sys2Proof.Machine

/-- NOP: only PR moves (R100). -/
def execNop (s : State) : Outcome := .next (s.advance 1)

/-- LD r,adr,x: `GR[r] <- M`, no flag written (R101; log 13). -/
def execLd (r : RegField) (adr : Word) (x : RegField) (s : State) : Outcome :=
  checkFields [r, x] (.next ((s.advance 2).setReg r (s.effVal adr x)))

/-- LAD r,adr,x: `GR[r] <- EA`, no flag written (R102). -/
def execLad (r : RegField) (adr : Word) (x : RegField) (s : State) : Outcome :=
  checkFields [r, x] (.next ((s.advance 2).setReg r (s.effAddr adr x)))

/-- LD r1,r2: `GR[r1] <- GR[r2]`, OF cleared, SF and ZF from the value (R103). -/
def execLdRR (r1 r2 : RegField) (s : State) : Outcome :=
  checkFields [r1, r2] (.next ((s.advance 1).writeResult r1 (clearing (s.reg r2))))

/-- ST r,adr,x: `MEM[EA] <- GR[r]`, no flag written (R104). -/
def execSt (r : RegField) (adr : Word) (x : RegField) (s : State) : Outcome :=
  checkFields [r, x] (.next ((s.advance 2).store (s.effAddr adr x) (s.reg r)))

end Sys2Proof.Machine
end

