-- ==== Sys2Proof/Machine/Logic.lean ====
section
/-! DEFINITION. Bitwise logic with a memory operand and with a register operand (spec R130 to R136). -/

namespace Sys2Proof.Machine

/-- AND r,adr,x (R131). -/
def execAnd (r : RegField) (adr : Word) (x : RegField) (s : State) : Outcome :=
  checkFields [r, x] (.next ((s.advance 2).writeResult r (logicAnd (s.reg r) (s.effVal adr x))))

/-- OR r,adr,x (R132). -/
def execOr (r : RegField) (adr : Word) (x : RegField) (s : State) : Outcome :=
  checkFields [r, x] (.next ((s.advance 2).writeResult r (logicOr (s.reg r) (s.effVal adr x))))

/-- XOR r,adr,x (R133). -/
def execXor (r : RegField) (adr : Word) (x : RegField) (s : State) : Outcome :=
  checkFields [r, x] (.next ((s.advance 2).writeResult r (logicXor (s.reg r) (s.effVal adr x))))

/-- AND r1,r2 (R134). -/
def execAndRR (r1 r2 : RegField) (s : State) : Outcome :=
  checkFields [r1, r2] (.next ((s.advance 1).writeResult r1 (logicAnd (s.reg r1) (s.reg r2))))

/-- OR r1,r2 (R135). -/
def execOrRR (r1 r2 : RegField) (s : State) : Outcome :=
  checkFields [r1, r2] (.next ((s.advance 1).writeResult r1 (logicOr (s.reg r1) (s.reg r2))))

/-- XOR r1,r2 (R136). -/
def execXorRR (r1 r2 : RegField) (s : State) : Outcome :=
  checkFields [r1, r2] (.next ((s.advance 1).writeResult r1 (logicXor (s.reg r1) (s.reg r2))))

end Sys2Proof.Machine
end

