-- ==== Sys2Proof/Machine/Shift.lean ====
section
/-! DEFINITION. The four shifts; the count is the effective address itself (spec R150 to R156). -/

namespace Sys2Proof.Machine

/-- SLA r,adr,x: shift left arithmetic (R151; log 11). -/
def execSla (r : RegField) (adr : Word) (x : RegField) (s : State) : Outcome :=
  checkFields [r, x] (.next ((s.advance 2).writeResult r (shiftLeftA (s.reg r) (s.shiftCount adr x))))

/-- SRA r,adr,x: shift right arithmetic (R152; log 11). -/
def execSra (r : RegField) (adr : Word) (x : RegField) (s : State) : Outcome :=
  checkFields [r, x] (.next ((s.advance 2).writeResult r (shiftRightA (s.reg r) (s.shiftCount adr x))))

/-- SLL r,adr,x: shift left logical (R153; log 11, log 12). -/
def execSll (r : RegField) (adr : Word) (x : RegField) (s : State) : Outcome :=
  checkFields [r, x] (.next ((s.advance 2).writeResult r (shiftLeftL (s.reg r) (s.shiftCount adr x))))

/-- SRL r,adr,x: shift right logical (R154; log 11, log 12). -/
def execSrl (r : RegField) (adr : Word) (x : RegField) (s : State) : Outcome :=
  checkFields [r, x] (.next ((s.advance 2).writeResult r (shiftRightL (s.reg r) (s.shiftCount adr x))))

end Sys2Proof.Machine
end

