-- ==== Sys2Proof/Machine/Stack.lean ====
section
/-! DEFINITION. PUSH, POP, CALL, RET (spec R180 to R183). -/

namespace Sys2Proof.Machine

/-- PUSH adr,x: pushes the effective address itself (R180). -/
def execPush (adr : Word) (x : RegField) (s : State) : Outcome :=
  checkFields [x] (.next ((s.advance 2).push (s.effAddr adr x)))

/-- POP r: pops into a register, no flag written (R181). -/
def execPop (r : RegField) (s : State) : Outcome :=
  checkFields [r] (.next ((s.advance 1).dropTop.setReg r s.top))

/-- CALL adr,x: pushes the address after both words and goes to the effective address (R182). -/
def execCall (adr : Word) (x : RegField) (s : State) : Outcome :=
  checkFields [x] (.next ((s.advance 2).enter (s.effAddr adr x)))

/-- RET: pops PR (R183). -/
def execRet (s : State) : Outcome := .next s.leave

end Sys2Proof.Machine
end

