-- ==== Sys2Proof/Machine/Svc.lean ====
section
/-! DEFINITION. SVC, the supervisor call through the trap table (spec R190 to R192). -/

namespace Sys2Proof.Machine

/-- SVC adr,x: the effective address is the trap number; a hit enters the configured service, a miss is
the fatal TrapMiss with no effect (R190). -/
def execSvc (adr : Word) (x : RegField) (s : State) : Outcome :=
  checkFields [x] ((s.advance 2).takeTrap (s.effAddr adr x))

end Sys2Proof.Machine
end

