-- ==== Sys2Proof/Machine/Dispatch.lean ====
section
/-! DEFINITION. The dispatcher: one arm per instruction, each a direct call of its meaning (spec R80,
R86). -/

namespace Sys2Proof.Machine

def exec (i : Instr) (s : State) : Host.Outcome State Fault Refusal :=
  match i with
  | .nop => Sys2Proof.Machine.execNop s
  | .ld r adr x => Sys2Proof.Machine.execLd r adr x s
  | .st r adr x => Sys2Proof.Machine.execSt r adr x s
  | .lad r adr x => Sys2Proof.Machine.execLad r adr x s
  | .ldRR r1 r2 => Sys2Proof.Machine.execLdRR r1 r2 s
  | .adda r adr x => Sys2Proof.Machine.execAdda r adr x s
  | .suba r adr x => Sys2Proof.Machine.execSuba r adr x s
  | .addl r adr x => Sys2Proof.Machine.execAddl r adr x s
  | .subl r adr x => Sys2Proof.Machine.execSubl r adr x s
  | .addaRR r1 r2 => Sys2Proof.Machine.execAddaRR r1 r2 s
  | .subaRR r1 r2 => Sys2Proof.Machine.execSubaRR r1 r2 s
  | .addlRR r1 r2 => Sys2Proof.Machine.execAddlRR r1 r2 s
  | .sublRR r1 r2 => Sys2Proof.Machine.execSublRR r1 r2 s
  | .and r adr x => Sys2Proof.Machine.execAnd r adr x s
  | .or r adr x => Sys2Proof.Machine.execOr r adr x s
  | .xor r adr x => Sys2Proof.Machine.execXor r adr x s
  | .andRR r1 r2 => Sys2Proof.Machine.execAndRR r1 r2 s
  | .orRR r1 r2 => Sys2Proof.Machine.execOrRR r1 r2 s
  | .xorRR r1 r2 => Sys2Proof.Machine.execXorRR r1 r2 s
  | .cpa r adr x => Sys2Proof.Machine.execCpa r adr x s
  | .cpl r adr x => Sys2Proof.Machine.execCpl r adr x s
  | .cpaRR r1 r2 => Sys2Proof.Machine.execCpaRR r1 r2 s
  | .cplRR r1 r2 => Sys2Proof.Machine.execCplRR r1 r2 s
  | .sla r adr x => Sys2Proof.Machine.execSla r adr x s
  | .sra r adr x => Sys2Proof.Machine.execSra r adr x s
  | .sll r adr x => Sys2Proof.Machine.execSll r adr x s
  | .srl r adr x => Sys2Proof.Machine.execSrl r adr x s
  | .jmi adr x => Sys2Proof.Machine.execJmi adr x s
  | .jnz adr x => Sys2Proof.Machine.execJnz adr x s
  | .jze adr x => Sys2Proof.Machine.execJze adr x s
  | .jump adr x => Sys2Proof.Machine.execJump adr x s
  | .jpl adr x => Sys2Proof.Machine.execJpl adr x s
  | .jov adr x => Sys2Proof.Machine.execJov adr x s
  | .push adr x => Sys2Proof.Machine.execPush adr x s
  | .pop r => Sys2Proof.Machine.execPop r s
  | .call adr x => Sys2Proof.Machine.execCall adr x s
  | .ret => Sys2Proof.Machine.execRet s
  | .svc adr x => Sys2Proof.Machine.execSvc adr x s

end Sys2Proof.Machine
end

