-- ==== Sys2Proof/Decode.lean ====
section
/-! DEFINITION. The decoder and the encoder (spec R70 to R74, R80 to R82, R91). Decoding is total:
it answers an instruction or a rejection by name. The opcode numbers are those of R80 (PRESUMED by
the spec for 29 of the 38; log 8). -/

namespace Sys2Proof

/-- The Instruction Descriptor of R71: opcode byte, the field in bits 7..4, the field in bits 3..0. -/
structure Descriptor where
  op : BitVec 8
  r : RegField
  x : RegField
  deriving DecidableEq, Repr

/-- Splits an instruction word into its fields; total over all words (R71). -/
def descriptor (w : Word) : Descriptor :=
  { op := w.extractLsb' 8 8, r := w.extractLsb' 4 4, x := w.extractLsb' 0 4 }

/-- `op1`, the instruction group: the top four bits of `op` (R71). -/
def Descriptor.op1 (d : Descriptor) : BitVec 4 := d.op.extractLsb' 4 4

/-- `op2`, the member of the group: the low four bits of `op` (R71). -/
def Descriptor.op2 (d : Descriptor) : BitVec 4 := d.op.extractLsb' 0 4

/-- The opcode map (R80): the instruction that `op` selects, with its operands taken from the
descriptor and the second word `adr`; `none` for the 218 unmapped opcodes (R81). One-word
instructions do not use `adr`, and no instruction uses a field R72 calls ignored (log 14). -/
def instrOf (d : Descriptor) (adr : Word) : Option Instr :=
  match d.op.toNat with
  | 0x00 => some (.nop)
  | 0x10 => some (.ld d.r adr d.x)
  | 0x11 => some (.st d.r adr d.x)
  | 0x12 => some (.lad d.r adr d.x)
  | 0x14 => some (.ldRR d.r d.x)
  | 0x20 => some (.adda d.r adr d.x)
  | 0x21 => some (.suba d.r adr d.x)
  | 0x22 => some (.addl d.r adr d.x)
  | 0x23 => some (.subl d.r adr d.x)
  | 0x24 => some (.addaRR d.r d.x)
  | 0x25 => some (.subaRR d.r d.x)
  | 0x26 => some (.addlRR d.r d.x)
  | 0x27 => some (.sublRR d.r d.x)
  | 0x30 => some (.and d.r adr d.x)
  | 0x31 => some (.or d.r adr d.x)
  | 0x32 => some (.xor d.r adr d.x)
  | 0x34 => some (.andRR d.r d.x)
  | 0x35 => some (.orRR d.r d.x)
  | 0x36 => some (.xorRR d.r d.x)
  | 0x40 => some (.cpa d.r adr d.x)
  | 0x41 => some (.cpl d.r adr d.x)
  | 0x44 => some (.cpaRR d.r d.x)
  | 0x45 => some (.cplRR d.r d.x)
  | 0x50 => some (.sla d.r adr d.x)
  | 0x51 => some (.sra d.r adr d.x)
  | 0x52 => some (.sll d.r adr d.x)
  | 0x53 => some (.srl d.r adr d.x)
  | 0x61 => some (.jmi adr d.x)
  | 0x62 => some (.jnz adr d.x)
  | 0x63 => some (.jze adr d.x)
  | 0x64 => some (.jump adr d.x)
  | 0x65 => some (.jpl adr d.x)
  | 0x66 => some (.jov adr d.x)
  | 0x70 => some (.push adr d.x)
  | 0x71 => some (.pop d.r)
  | 0x80 => some (.call adr d.x)
  | 0x81 => some (.ret)
  | 0xF0 => some (.svc adr d.x)
  | _ => none

/-- Why an instruction word is rejected. -/
inductive WordReject where
  /-- The opcode byte is unmapped (R81): the machine raises IllegalInstruction (R202). -/
  | illegalInstruction (w : Word)
  /-- A used register field holds 8 to 15 (R82): the model refuses the word (U1; log 9). -/
  | reservedField (f : RegField)
  deriving DecidableEq, Repr

/-- Decodes the first word `w`; `adr` is the word that follows it, used by two-word formats only.
Whether the word is legal is decided from the first word alone (R74, R87). -/
def decodeWords (w adr : Word) : Except WordReject Instr :=
  match instrOf (descriptor w) adr with
  | none => .error (.illegalInstruction w)
  | some i =>
    match firstReserved i.usedFields with
    | some f => .error (.reservedField f)
    | none => .ok i

/-- The five formats (R72). -/
inductive Format where
  | n
  | r
  | rr
  | rax
  | ax
  deriving DecidableEq, Repr

/-- The format of each instruction (R72, R80). -/
def Instr.format : Instr → Format
  | .nop | .ret => .n
  | .pop .. => .r
  | .ldRR .. | .addaRR .. | .subaRR .. | .addlRR .. | .sublRR ..
  | .andRR .. | .orRR .. | .xorRR .. | .cpaRR .. | .cplRR .. => .rr
  | .ld .. | .st .. | .lad .. | .adda .. | .suba .. | .addl .. | .subl ..
  | .and .. | .or .. | .xor .. | .cpa .. | .cpl ..
  | .sla .. | .sra .. | .sll .. | .srl .. => .rax
  | .jmi .. | .jnz .. | .jze .. | .jump .. | .jpl .. | .jov ..
  | .push .. | .call .. | .svc .. => .ax

/-- The number of words of a format (R72, R74). -/
def Format.words : Format → Nat
  | .n | .r | .rr => 1
  | .rax | .ax => 2

/-- The length in words of the instruction that `w` begins, from its opcode alone; an unmapped
opcode has no length (R74). -/
def instrLength (w : Word) : Option Nat :=
  (instrOf (descriptor w) 0).map fun i => i.format.words

/-- Why a sequence of words is rejected. -/
inductive Reject where
  /-- The first word is rejected. -/
  | word (e : WordReject)
  /-- The sequence ends before the instruction does. -/
  | truncated
  deriving DecidableEq, Repr

/-- Decodes the instruction at the front of a sequence of words, and answers the words after it.
The word is the smallest unit of this machine (R53), so code is words, not bytes. -/
def decode : List Word → Except Reject (Instr × List Word)
  | [] => .error .truncated
  | w :: rest =>
    match decodeWords w (rest.headD 0) with
    | .error e => .error (.word e)
    | .ok i =>
      if rest.length + 1 < i.format.words then .error .truncated
      else .ok (i, rest.drop (i.format.words - 1))

/-- Word 0 of an instruction, `op * 256 + f74 * 16 + f30` (R91). -/
def firstWord (op : BitVec 8) (f74 f30 : RegField) : Word := op ++ f74 ++ f30

/-- The words of an instruction (R91); ignored fields are written as zero (R73; log 14). -/
def encode : Instr → List Word
  | .nop => [firstWord 0x00 0 0]
  | .ld r adr x => [firstWord 0x10 r x, adr]
  | .st r adr x => [firstWord 0x11 r x, adr]
  | .lad r adr x => [firstWord 0x12 r x, adr]
  | .ldRR r1 r2 => [firstWord 0x14 r1 r2]
  | .adda r adr x => [firstWord 0x20 r x, adr]
  | .suba r adr x => [firstWord 0x21 r x, adr]
  | .addl r adr x => [firstWord 0x22 r x, adr]
  | .subl r adr x => [firstWord 0x23 r x, adr]
  | .addaRR r1 r2 => [firstWord 0x24 r1 r2]
  | .subaRR r1 r2 => [firstWord 0x25 r1 r2]
  | .addlRR r1 r2 => [firstWord 0x26 r1 r2]
  | .sublRR r1 r2 => [firstWord 0x27 r1 r2]
  | .and r adr x => [firstWord 0x30 r x, adr]
  | .or r adr x => [firstWord 0x31 r x, adr]
  | .xor r adr x => [firstWord 0x32 r x, adr]
  | .andRR r1 r2 => [firstWord 0x34 r1 r2]
  | .orRR r1 r2 => [firstWord 0x35 r1 r2]
  | .xorRR r1 r2 => [firstWord 0x36 r1 r2]
  | .cpa r adr x => [firstWord 0x40 r x, adr]
  | .cpl r adr x => [firstWord 0x41 r x, adr]
  | .cpaRR r1 r2 => [firstWord 0x44 r1 r2]
  | .cplRR r1 r2 => [firstWord 0x45 r1 r2]
  | .sla r adr x => [firstWord 0x50 r x, adr]
  | .sra r adr x => [firstWord 0x51 r x, adr]
  | .sll r adr x => [firstWord 0x52 r x, adr]
  | .srl r adr x => [firstWord 0x53 r x, adr]
  | .jmi adr x => [firstWord 0x61 0 x, adr]
  | .jnz adr x => [firstWord 0x62 0 x, adr]
  | .jze adr x => [firstWord 0x63 0 x, adr]
  | .jump adr x => [firstWord 0x64 0 x, adr]
  | .jpl adr x => [firstWord 0x65 0 x, adr]
  | .jov adr x => [firstWord 0x66 0 x, adr]
  | .push adr x => [firstWord 0x70 0 x, adr]
  | .pop r => [firstWord 0x71 r 0]
  | .call adr x => [firstWord 0x80 0 x, adr]
  | .ret => [firstWord 0x81 0 0]
  | .svc adr x => [firstWord 0xF0 0 x, adr]

/-- The decoder's answer for an instruction whose bits are the low `nbits` bits of `w`, numbered as
the opcode table numbers them: bit 0 is the least significant bit of the first word, and the second
word is bits 31..16. -/
def decodeTableWord (nbits w : Nat) : Option Instr :=
  let v := w % 2 ^ nbits
  match decodeWords (BitVec.ofNat 16 v) (BitVec.ofNat 16 (v / 65536)) with
  | .ok i => some i
  | .error _ => none

end Sys2Proof
end

