-- ==== Sys2Proof/Machine/Fetch.lean ====
section
/-! DEFINITION. Fetching an instruction from memory, what a rejected word does, and placing an
instruction where the next step fetches (spec R74, R86, R87). -/

namespace Sys2Proof.Machine

/-- The instruction at PR: its first word, and the word after it as `adr` for two-word formats, each
address modulo 65536 (R28, R75, R86). Reads have no effect (R57), so reading the second word is not
observable for the formats that ignore it; `stepAccesses` lists what R60 says is read. -/
def fetchInstr (s : State) : Except WordReject Instr :=
  decodeWords (s.load s.pr) (s.load (s.pr + 1))

/-- A word the decoder rejects: an unmapped opcode raises IllegalInstruction (R202), a reserved field
is refused by the model (R82, U1). -/
def rejected : WordReject → Outcome
  | .illegalInstruction w => raiseIllegal w
  | .reservedField f => .refused (.reservedRegisterField f)

/-- The state with two words stored where the next step fetches. -/
def State.placeWords (s : State) (w adr : Word) : State :=
  (s.store s.pr w).store (s.pr + 1) adr

end Sys2Proof.Machine
end

