-- ==== Sys2Proof/Machine/Step.lean ====
section
/-! DEFINITION. One step of the machine (spec R86): fetch, decode, execute. -/

namespace Sys2Proof.Machine

/-- One step: the instruction at PR is fetched, decoded and executed; a rejected word ends the step
without effect (R86, R88). -/
def step (s : State) : Host.Outcome State Fault Refusal :=
  match fetchInstr s with
  | .ok i => exec i s
  | .error e => rejected e

/-- The state with the instruction whose bits are the low `nbits` bits of `w` stored at PR, the second
word at the next address. It stands for the host's loading of a program (R239; log 16). -/
def State.withFetchWord (s : State) (nbits w : Nat) : State :=
  let v := w % 2 ^ nbits
  s.placeWords (BitVec.ofNat 16 v) (BitVec.ofNat 16 (v / 65536))

end Sys2Proof.Machine
end

