-- ==== Sys2Proof/Machine/Accesses.lean ====
section
/-! DEFINITION. The memory accesses of a step, in order (spec R60, decision D18; log 15). They are a
function of the state, not part of it: no program can observe their order (R60). -/

namespace Sys2Proof.Machine

/-- A read or a write of one word at an address. -/
inductive Access where
  | read (a : Word)
  | write (a : Word)
  deriving DecidableEq, Repr

/-- The accesses an instruction makes after the fetch of its first word, in order, from the state at
the start of the step (R60). -/
def instrAccesses (i : Instr) (s : State) : List Access :=
  let operand := Access.read (s.pr + 1)
  match i with
  | .nop | .ldRR .. | .addaRR .. | .subaRR .. | .addlRR .. | .sublRR ..
  | .andRR .. | .orRR .. | .xorRR .. | .cpaRR .. | .cplRR .. => []
  | .lad .. | .sla .. | .sra .. | .sll .. | .srl ..
  | .jmi .. | .jnz .. | .jze .. | .jump .. | .jpl .. | .jov .. => [operand]
  | .ld _ adr x | .adda _ adr x | .suba _ adr x | .addl _ adr x | .subl _ adr x
  | .and _ adr x | .or _ adr x | .xor _ adr x | .cpa _ adr x | .cpl _ adr x =>
    [operand, .read (s.effAddr adr x)]
  | .st _ adr x => [operand, .write (s.effAddr adr x)]
  | .push .. | .call .. => [operand, .write (s.sp - 1)]
  | .svc adr x =>
    match TrapTable.target s.traps (s.effAddr adr x) with
    | some _ => [operand, .write (s.sp - 1)]
    | none => [operand]
  | .pop _ | .ret => [.read s.sp]

/-- The accesses of the step from `s`, in order: the fetch, then those of the instruction; an
instruction word that is rejected has the fetch only (R60, R87). -/
def stepAccesses (s : State) : List Access :=
  .read s.pr ::
    match fetchInstr s with
    | .ok i => instrAccesses i s
    | .error _ => []

end Sys2Proof.Machine
end

