-- ==== Sys2Proof/Machine/HostInterface.lean ====
section
/-! DEFINITION. The host's operations (spec R233 to R242). The host acts between steps only (R241);
each operation is one function of the state. Values and addresses the host gives are reduced to 16
bits, and a register index outside 0 to 7 is refused (R234, decision D15; log 17). -/

namespace Sys2Proof.Machine

/-- `setRegister(i, v)` (R234). -/
def hostSetRegister (i : Nat) (v : Int) (s : State) : Outcome :=
  if i < 8 then .next (s.setReg (BitVec.ofNat 4 i) (trunc16 v)) else .refused (.noSuchRegister i)

/-- `getRegister(i)` (R234). -/
def hostGetRegister (i : Nat) (s : State) : Except Refusal Word :=
  if i < 8 then .ok (s.reg (BitVec.ofNat 4 i)) else .error (.noSuchRegister i)

/-- `getProgramCounter()` (R235). -/
def hostGetProgramCounter (s : State) : Word := s.pr

/-- `setProgramCounter(v)` (R235). -/
def hostSetProgramCounter (v : Int) (s : State) : State := s.jumpTo (trunc16 v)

/-- `setStackPointer(v)` (R236). -/
def hostSetStackPointer (v : Int) (s : State) : State := s.setSp (trunc16 v)

/-- `get_sp()` (R236). -/
def hostGetStackPointer (s : State) : Word := s.sp

/-- `get_fr()`, the three flags (R237). -/
def hostGetFlags (s : State) : Flags := s.fr

/-- `get_fr()` packed as a number (R38, R237). -/
def hostGetFlagsPacked (s : State) : BitVec 3 := packFlags s.fr

/-- `callInto(addr)`: pushes the PR it finds and goes to `addr` (R185, R238). -/
def hostCallInto (addr : Int) (s : State) : State := s.enter (trunc16 addr)

/-- `mem_poke(addr, v)` (R239). -/
def hostPoke (addr v : Int) (s : State) : State := s.store (trunc16 addr) (trunc16 v)

/-- `mem_peek(addr)` (R239). -/
def hostPeek (addr : Int) (s : State) : Word := s.load (trunc16 addr)

/-- Loads an image of words at consecutive addresses from an origin, modulo 65536 (R54, R239). -/
def hostLoadImage (origin : Word) : List Word → State → State
  | [], s => s
  | w :: ws, s => hostLoadImage (origin + 1) ws (s.store origin w)

/-- `trap_set(num, target)`, replacing any earlier entry (R240). -/
def hostTrapSet (num target : Int) (s : State) : State :=
  { s with traps := TrapTable.set s.traps (trunc16 num) (trunc16 target) }

/-- The outcome codes of `step` (R201, decision D10; log 19). -/
inductive StepCode where
  | ok
  | illegalInstruction
  | trapMiss
  deriving DecidableEq, Repr

/-- The number of an outcome code (R201). -/
def StepCode.number : StepCode → Nat
  | .ok => 0
  | .illegalInstruction => 1
  | .trapMiss => 2

/-- The outcome code of a fatal condition (R201). -/
def codeOfFault : Fault → StepCode
  | .illegalInstruction _ => .illegalInstruction
  | .trapMiss _ => .trapMiss

/-- `step()` as the host sees it: the outcome code and the state after it, which for a fatal outcome is
the state before it (R203, R233); `none` where the model refuses the instruction. -/
def hostStep (s : State) : Option (StepCode × State) :=
  match step s with
  | .next t => some (.ok, t)
  | .fault f => some (codeOfFault f, s)
  | .refused _ => none

/-- How a run that the host drives ends (R242). -/
inductive RunEnd where
  /-- PR equals the sentinel at a step boundary; the word there is not executed. -/
  | sentinel (s : State)
  /-- A step ended in a fatal outcome; the state is the one before that step. -/
  | fatal (f : Fault) (s : State)
  /-- The model gives the next instruction no meaning. -/
  | refused (r : Refusal) (s : State)
  /-- The host's step limit is used up. -/
  | limit (s : State)
  deriving DecidableEq, Repr

/-- The host's loop with a sentinel return address and a step limit (R242, decision D17; log 21). -/
def drive (sentinel : Word) : Nat → State → RunEnd
  | 0, s => if s.pr = sentinel then .sentinel s else .limit s
  | k + 1, s =>
    if s.pr = sentinel then .sentinel s
    else
      match step s with
      | .next t => drive sentinel k t
      | .fault f => .fatal f s
      | .refused r => .refused r s

end Sys2Proof.Machine
end

