-- ==== Sys2Proof/Safety.lean ====
section
/-! DEFINITION. The terms the claims use: the model's invariant, what is unchanged between two states,
and the spec's own tables of which instruction reads or writes what (R24, R34, R36, R60, R220). -/

namespace Sys2Proof.Safety

open Sys2Proof.Machine

/-- The model's invariant: memory and trap table are in canonical form (log 1, log 7). -/
abbrev Canonical (s : State) : Prop := Memory.wf s.mem ∧ TrapTable.wf s.traps

/-- An outcome that stops: a fault or a refusal, so no next state. -/
def Stops : Machine.Outcome → Prop
  | .next _ => False
  | .fault _ => True
  | .refused _ => True

/-- Every general register but the one a field names is unchanged. -/
def SameRegsBut (r : RegField) (s t : State) : Prop := ∀ f, f ≠ r → t.reg f = s.reg f

/-- Every general register is unchanged. -/
def SameRegs (s t : State) : Prop := ∀ f, t.reg f = s.reg f

/-- Every word of memory is unchanged. -/
def SameMem (s t : State) : Prop := ∀ a, t.load a = s.load a

/-- Every word of memory but the one at `a` is unchanged. -/
def SameMemBut (a : Word) (s t : State) : Prop := ∀ b, b ≠ a → t.load b = s.load b

/-- The frame of an instruction that writes the general register `r` and nothing else but the flags
and PR. -/
def WritesOnlyReg (r : RegField) (s t : State) : Prop :=
  SameRegsBut r s t ∧ t.sp = s.sp ∧ SameMem s t ∧ t.traps = s.traps

/-- The frame of an instruction that writes no general register, no memory and not SP. -/
def WritesNoData (s t : State) : Prop :=
  SameRegs s t ∧ t.sp = s.sp ∧ SameMem s t ∧ t.traps = s.traps

/-- The flags are `of`, and the sign and zero flag of the result `y`: `SZ(y)` of R11. -/
def FlagsAre (of : Prop) (y : Word) (t : State) : Prop :=
  (t.fr.of = true ↔ of) ∧ (t.fr.sf = true ↔ 32768 ≤ y.toNat) ∧ (t.fr.zf = true ↔ y.toNat = 0)

/-- The effect of an instruction whose exact signed result is `n`: the truncated result in `r`, OF when
`n` leaves the signed range, SF and ZF of the result, no other data written (R110). -/
def SignedResult (r : RegField) (n : Int) (s t : State) : Prop :=
  ((t.reg r).toNat : Int) = n % 65536 ∧ FlagsAre (n < -32768 ∨ 32767 < n) (t.reg r) t ∧
    WritesOnlyReg r s t

/-- The effect of an instruction whose exact unsigned result is `n`: the truncated result in `r`, OF
when `n` leaves the unsigned range (a carry or a borrow), SF and ZF of the result, no other data
written (R111). -/
def UnsignedResult (r : RegField) (n : Int) (s t : State) : Prop :=
  ((t.reg r).toNat : Int) = n % 65536 ∧ FlagsAre (n < 0 ∨ 65535 < n) (t.reg r) t ∧
    WritesOnlyReg r s t

/-- The effect of an instruction that puts in `r` the word whose bit `i` is `bit i`, clears OF and sets
SF and ZF from that word, no other data written (R130). -/
def BitwiseResult (r : RegField) (bit : Nat → Bool) (s t : State) : Prop :=
  (∀ i < 16, (t.reg r).getLsbD i = bit i) ∧ FlagsAre False (t.reg r) t ∧ WritesOnlyReg r s t

/-- The effect of a compare: OF cleared, SF when left is less, ZF when equal, no data written
(R140). -/
def CompareResult (less equal : Prop) (s t : State) : Prop :=
  t.fr.of = false ∧ (t.fr.sf = true ↔ less) ∧ (t.fr.zf = true ↔ equal) ∧ WritesNoData s t

/-- The effect of a shift: `y` in `r`, the overflow flag given, SF and ZF of the result, no other data
written (R151 to R154). -/
def ShiftResult (r : RegField) (y : Nat) (overflow : Prop) (s t : State) : Prop :=
  (t.reg r).toNat = y ∧ FlagsAre overflow (t.reg r) t ∧ WritesOnlyReg r s t

/-- The effect of a jump: control goes to `target`, no flag and no data written (R170). -/
def JumpResult (target : Word) (s t : State) : Prop :=
  t.pr = target ∧ t.fr = s.fr ∧ WritesNoData s t

/-- One word pushed: SP down by one, `v` at the new SP, no other word, no register, no flag and no
trap table entry changed (R33). -/
def PushResult (v : Word) (s t : State) : Prop :=
  t.sp = s.sp - 1 ∧ t.load (s.sp - 1) = v ∧ SameMemBut (s.sp - 1) s t ∧ SameRegs s t ∧
    t.fr = s.fr ∧ t.traps = s.traps

/-- The index register a field selects: none for 0 (R23). -/
def indexReads (x : RegField) : List RegField := if x = 0 then [] else [x]

/-- The general registers an instruction reads: the middle column of the table of R24. -/
def regsRead : Instr → List RegField
  | .nop | .ret | .pop _ => []
  | .ld _ _ x | .lad _ _ x => indexReads x
  | .ldRR _ r2 => [r2]
  | .st r _ x => r :: indexReads x
  | .adda r _ x | .suba r _ x | .addl r _ x | .subl r _ x
  | .and r _ x | .or r _ x | .xor r _ x | .cpa r _ x | .cpl r _ x
  | .sla r _ x | .sra r _ x | .sll r _ x | .srl r _ x => r :: indexReads x
  | .addaRR r1 r2 | .subaRR r1 r2 | .addlRR r1 r2 | .sublRR r1 r2
  | .andRR r1 r2 | .orRR r1 r2 | .xorRR r1 r2 | .cpaRR r1 r2 | .cplRR r1 r2 => [r1, r2]
  | .jmi _ x | .jnz _ x | .jze _ x | .jump _ x | .jpl _ x | .jov _ x
  | .push _ x | .call _ x | .svc _ x => indexReads x

/-- The general register an instruction writes, if it writes one: the right column of R24. -/
def regWritten : Instr → Option RegField
  | .ld r .. | .lad r .. | .pop r => some r
  | .ldRR r1 _ => some r1
  | .adda r .. | .suba r .. | .addl r .. | .subl r .. | .and r .. | .or r .. | .xor r .. => some r
  | .addaRR r1 _ | .subaRR r1 _ | .addlRR r1 _ | .sublRR r1 _
  | .andRR r1 _ | .orRR r1 _ | .xorRR r1 _ => some r1
  | .sla r .. | .sra r .. | .sll r .. | .srl r .. => some r
  | .nop | .ret | .st .. | .cpa .. | .cpl .. | .cpaRR .. | .cplRR ..
  | .jmi .. | .jnz .. | .jze .. | .jump .. | .jpl .. | .jov .. | .push .. | .call .. | .svc .. => none

/-- The instructions that write all three flags: the table of R36. -/
def writesFlags : Instr → Bool
  | .ldRR .. | .adda .. | .suba .. | .addl .. | .subl ..
  | .addaRR .. | .subaRR .. | .addlRR .. | .sublRR ..
  | .and .. | .or .. | .xor .. | .andRR .. | .orRR .. | .xorRR ..
  | .cpa .. | .cpl .. | .cpaRR .. | .cplRR .. | .sla .. | .sra .. | .sll .. | .srl .. => true
  | .nop | .ld .. | .lad .. | .st .. | .jmi .. | .jnz .. | .jze .. | .jump .. | .jpl .. | .jov ..
  | .push .. | .pop .. | .call .. | .ret | .svc .. => false

/-- The conditional jumps, the only instructions that read FR (R37). -/
def readsFlags : Instr → Bool
  | .jmi .. | .jnz .. | .jze .. | .jpl .. | .jov .. => true
  | .nop | .ret | .pop _ | .ld .. | .st .. | .lad .. | .ldRR ..
  | .adda .. | .suba .. | .addl .. | .subl .. | .addaRR .. | .subaRR .. | .addlRR .. | .sublRR ..
  | .and .. | .or .. | .xor .. | .andRR .. | .orRR .. | .xorRR ..
  | .cpa .. | .cpl .. | .cpaRR .. | .cplRR .. | .sla .. | .sra .. | .sll .. | .srl ..
  | .jump .. | .push .. | .call .. | .svc .. => false

/-- The change of SP an instruction makes: one down for a push, one up for a pop (R33, R34). -/
def spAfter (i : Instr) (s : State) : Word :=
  match i with
  | .push .. | .call .. | .svc .. => s.sp - 1
  | .pop _ | .ret => s.sp + 1
  | .nop | .ld .. | .st .. | .lad .. | .ldRR ..
  | .adda .. | .suba .. | .addl .. | .subl .. | .addaRR .. | .subaRR .. | .addlRR .. | .sublRR ..
  | .and .. | .or .. | .xor .. | .andRR .. | .orRR .. | .xorRR ..
  | .cpa .. | .cpl .. | .cpaRR .. | .cplRR .. | .sla .. | .sra .. | .sll .. | .srl ..
  | .jmi .. | .jnz .. | .jze .. | .jump .. | .jpl .. | .jov .. => s.sp

/-- The address an instruction stores to and the word it stores there, if it stores (R60, R68). -/
def stored (i : Instr) (s : State) : Option (Word × Word) :=
  match i with
  | .st r adr x => some (s.effAddr adr x, s.reg r)
  | .push adr x => some (s.sp - 1, s.effAddr adr x)
  | .call .. | .svc .. => some (s.sp - 1, s.pr + 2)
  | .nop | .ret | .pop _ | .ld .. | .lad .. | .ldRR ..
  | .adda .. | .suba .. | .addl .. | .subl .. | .addaRR .. | .subaRR .. | .addlRR .. | .sublRR ..
  | .and .. | .or .. | .xor .. | .andRR .. | .orRR .. | .xorRR ..
  | .cpa .. | .cpl .. | .cpaRR .. | .cplRR .. | .sla .. | .sra .. | .sll .. | .srl ..
  | .jmi .. | .jnz .. | .jze .. | .jump .. | .jpl .. | .jov .. => none

/-- Where control goes when the step is OK: the table of R220. -/
def nextPr (i : Instr) (s : State) : Word :=
  match i with
  | .jmi adr x => if s.fr.sf = true then s.effAddr adr x else s.pr + 2
  | .jnz adr x => if s.fr.zf = false then s.effAddr adr x else s.pr + 2
  | .jze adr x => if s.fr.zf = true then s.effAddr adr x else s.pr + 2
  | .jump adr x => s.effAddr adr x
  | .jpl adr x => if s.fr.sf = false ∧ s.fr.zf = false then s.effAddr adr x else s.pr + 2
  | .jov adr x => if s.fr.of = true then s.effAddr adr x else s.pr + 2
  | .call adr x => s.effAddr adr x
  | .ret => s.load s.sp
  | .svc adr x => (TrapTable.target s.traps (s.effAddr adr x)).getD s.pr
  | .nop | .pop _ | .ldRR .. | .addaRR .. | .subaRR .. | .addlRR .. | .sublRR ..
  | .andRR .. | .orRR .. | .xorRR .. | .cpaRR .. | .cplRR .. => s.pr + 1
  | .ld .. | .st .. | .lad .. | .adda .. | .suba .. | .addl .. | .subl ..
  | .and .. | .or .. | .xor .. | .cpa .. | .cpl ..
  | .sla .. | .sra .. | .sll .. | .srl .. | .push .. => s.pr + 2

/-- The trap number of an SVC that misses: no entry in the trap table (R204). -/
def missedTrap (i : Instr) (s : State) : Option Word :=
  match i with
  | .svc adr x =>
    if TrapTable.target s.traps (s.effAddr adr x) = none then some (s.effAddr adr x) else none
  | .nop | .ret | .pop _ | .ld .. | .st .. | .lad .. | .ldRR ..
  | .adda .. | .suba .. | .addl .. | .subl .. | .addaRR .. | .subaRR .. | .addlRR .. | .sublRR ..
  | .and .. | .or .. | .xor .. | .andRR .. | .orRR .. | .xorRR ..
  | .cpa .. | .cpl .. | .cpaRR .. | .cplRR .. | .sla .. | .sra .. | .sll .. | .srl ..
  | .jmi .. | .jnz .. | .jze .. | .jump .. | .jpl .. | .jov .. | .push .. | .call .. => none

/-- The opcode bytes that are illegal, as the ranges R84 lists them. -/
def illegalOpRanges : List (Nat × Nat) :=
  [(0x01, 0x0F), (0x13, 0x13), (0x15, 0x1F), (0x28, 0x2F), (0x33, 0x33), (0x37, 0x3F),
   (0x42, 0x43), (0x46, 0x4F), (0x54, 0x5F), (0x60, 0x60), (0x67, 0x6F), (0x72, 0x7F),
   (0x82, 0x8F), (0x90, 0xEF), (0xF1, 0xFF)]

/-- The opcode byte of a word is one R84 lists as illegal. -/
abbrev illegalOp (w : Word) : Prop :=
  ∃ p ∈ illegalOpRanges, p.1 ≤ w.toNat / 256 ∧ w.toNat / 256 ≤ p.2

/-- The bits of the first word that take part in decoding, by format (R72, R73). -/
def usedBits : Format → Word
  | .n => 0xFF00
  | .r => 0xFFF0
  | .rr | .rax => 0xFFFF
  | .ax => 0xFF0F

end Sys2Proof.Safety
end

