-- ==== Sys2Proof/Certificates/Slice0/Obligations.lean ====
section
/-! DEFINITION. The statements for the provers. Each docstring says what the statement formalises; the
rules and sections of the spec it cites stand in OBLIGATIONS.json. -/

open Sys2Proof Sys2Proof.Machine Sys2Proof.Safety

/-- O1. For every well-formed instruction i and every list of words rest, decode (encode i ++ rest)
answers i and rest. The opcode numbers are those of log 8 (decision D2), the zero in ignored fields
is log 14 (decision D9). [30_encoding.md section 1 (Lengths and formats), 30_encoding.md section 3
(The opcode map), 30_encoding.md section 5, encoding an instruction] -/
def Obligations.DecodeEncode : Prop :=
  ∀ (i : Instr) (rest : List Word), i.WellFormed → decode (encode i ++ rest) = .ok (i, rest)

/-- O2. If decode ws answers (i, rest), then i is well-formed, ws is a first word w and a tail, the
encoding of i is w with the bits its format ignores cleared, followed by as many further words of
the tail as its format has, and rest is the tail after them. Opcode numbers: log 8. Ignored bits:
log 14. [30_encoding.md section 1 (Lengths and formats), 30_encoding.md section 3 (The opcode map)] -/
def Obligations.DecodeSound : Prop :=
  ∀ (ws : List Word) (i : Instr) (rest : List Word), decode ws = .ok (i, rest) →
    i.WellFormed ∧ ∃ w tail, ws = w :: tail ∧
      encode i = (w &&& usedBits i.format) :: tail.take (i.format.words - 1) ∧
      rest = tail.drop (i.format.words - 1)

/-- O3. For every first word w and following word adr, decodeWords w adr is the rejection
illegalInstruction w if and only if the opcode byte of w lies in one of the listed ranges. It rests
on the opcode map of decision D2 (log 8). [30_encoding.md section 3, the list of illegal op values
by group] -/
def Obligations.IllegalOpcodes : Prop :=
  ∀ w adr : Word, decodeWords w adr = .error (.illegalInstruction w) ↔ illegalOp w

/-- O4. If f is the first used register field of i that holds 8 to 15, then decoding the encoding of i
is the rejection reservedField f. The model refuses these encodings by decision D8 (log 9).
[30_encoding.md section 3, Reserved encodings, 93_implementation_defined.md U1] -/
def Obligations.ReservedFieldsRejected : Prop :=
  ∀ (i : Instr) (f : RegField) (rest : List Word), firstReserved i.usedFields = some f →
    decode (encode i ++ rest) = .error (.word (.reservedField f))

/-- O5. If w with second word adr decodes to i, then so does every word that agrees with w on the bits
the format of i uses. If w is rejected as reservedField f, then its opcode selects an instruction i,
and every word that agrees with w on the bits the format of i uses, with any second word, is
rejected as reservedField f too. If w is rejected as illegal, so is every word with the same opcode
byte, with any second word. Decisions D8 and D9, log 9, log 14. [30_encoding.md section 1, fields
marked ignored (decision D9), 30_encoding.md section 3, Illegal encodings, Reserved encodings
(decision D8)] -/
def Obligations.IgnoredBits : Prop :=
  (∀ (w w' adr : Word) (i : Instr), decodeWords w adr = .ok i →
    w' &&& usedBits i.format = w &&& usedBits i.format → decodeWords w' adr = .ok i) ∧
  (∀ (w adr : Word) (f : RegField), decodeWords w adr = .error (.reservedField f) →
    ∃ i, instrOf (descriptor w) adr = some i ∧
      ∀ w' adr' : Word, w' &&& usedBits i.format = w &&& usedBits i.format →
        decodeWords w' adr' = .error (.reservedField f)) ∧
  (∀ w w' adr adr' : Word, decodeWords w adr = .error (.illegalInstruction w) →
    w'.toNat / 256 = w.toNat / 256 →
    decodeWords w' adr' = .error (.illegalInstruction w'))

/-- O6. Two words with the same opcode byte have the same length; a word that decodes has the length of
its format; changing the second word never makes a legal word illegal; a word with an illegal opcode
(log 8) has no length. [30_encoding.md section 1, the length from op alone] -/
def Obligations.LengthFromOpcode : Prop :=
  (∀ w w' : Word, w.toNat / 256 = w'.toNat / 256 → instrLength w = instrLength w') ∧
  (∀ (w adr : Word) (i : Instr), decodeWords w adr = .ok i → instrLength w = some i.format.words) ∧
  (∀ (w adr adr' : Word) (i : Instr), decodeWords w adr = .ok i →
    ∃ j, decodeWords w adr' = .ok j) ∧
  (∀ w : Word, illegalOp w → instrLength w = none)

/-- O7. The words 1222 0001, 3410, 7120 and 6300 000f decode to LAD GR2,1,GR2, AND GR1,GR0, POP GR2 and
JZE 15, and 9900 is rejected as illegal. The opcode numbers behind these words are those of decision
D2, marked PRESUMED in log 8. [30_encoding.md section 5, worked decode, 95_test_vectors.md S1] -/
def Obligations.WorkedDecodes : Prop :=
  decode [0x1222, 0x0001] = .ok (.lad 2 1 2, []) ∧
  decode [0x3410] = .ok (.andRR 1 0, []) ∧
  decode [0x7120] = .ok (.pop 2, []) ∧
  decode [0x6300, 0x000F] = .ok (.jze 15 0, []) ∧
  decode [0x9900] = .error (.word (.illegalInstruction 0x9900))

/-- O8. If the word at PR and the word at the next address modulo 65536 decode to i, then i is well-
formed and step s is exec i s; nothing is added around exec (exec itself moves PR past the words of
i: log 18). [30_encoding.md section 4 (The step: fetch, decode, dispatch)] -/
def Obligations.StepRunsDecoded : Prop :=
  ∀ (s : State) (i : Instr) (rest : List Word),
    decode [s.load s.pr, s.load (s.pr + 1)] = .ok (i, rest) → i.WellFormed ∧ step s = exec i s

/-- O9. If the opcode byte of the word at PR is one the spec lists as illegal (opcode numbers: log 8),
then step answers the fault illegalInstruction with that word. [60_exceptions.md section 1,
IllegalInstruction, 30_encoding.md section 3, Illegal encodings] -/
def Obligations.IllegalStepFaults : Prop :=
  ∀ s : State, illegalOp (s.load s.pr) → step s = .fault (.illegalInstruction (s.load s.pr))

/-- O10. If the word at PR, with the bits that the format of i ignores cleared, is the first word of the
encoding of an instruction i whose first reserved used field is f, then step is the refusal
reservedRegisterField f, whatever the ignored bits and the next word hold. Decisions D8 and D9, log
9, log 14. [30_encoding.md section 3, Reserved encodings, 30_encoding.md section 1, fields marked
ignored (decision D9), 60_exceptions.md section 1, Priority, 93_implementation_defined.md U1] -/
def Obligations.ReservedStepRefused : Prop :=
  ∀ (s : State) (i : Instr) (f : RegField), firstReserved i.usedFields = some f →
    (encode i).head? = some (s.load s.pr &&& usedBits i.format) →
    step s = .refused (.reservedRegisterField f)

/-- O11. For every instruction i, if f is its first used register field that holds 8 to 15, exec i s is
the refusal reservedRegisterField f in every state s. [30_encoding.md section 3, Reserved encodings,
93_implementation_defined.md U1] -/
def Obligations.ReservedInstrRefused : Prop :=
  ∀ (i : Instr) (s : State) (f : RegField), firstReserved i.usedFields = some f →
    exec i s = .refused (.reservedRegisterField f)

/-- O12. If step s is a fault, the host gets the code of that fault, which is 1 for an illegal
instruction and 2 for a trap miss, and the state s itself, so that a second step answers the same;
if step s is a next state t, the host gets code 0 and t. Decisions D4, D10, D20; log 10, log 19.
[60_exceptions.md section 1, a fatal step has no effect (decision D4), 60_exceptions.md section 2,
after a fatal outcome (decision D20), 60_exceptions.md section 1, cause codes (decision D10)] -/
def Obligations.FatalStepCommitsNothing : Prop :=
  ∀ s : State,
    (∀ w, step s = .fault (.illegalInstruction w) →
      ∃ c t, hostStep s = some (c, t) ∧ c.number = 1 ∧ t = s ∧ hostStep t = hostStep s) ∧
    (∀ n, step s = .fault (.trapMiss n) →
      ∃ c t, hostStep s = some (c, t) ∧ c.number = 2 ∧ t = s ∧ hostStep t = hostStep s) ∧
    (∀ t, step s = .next t → ∃ c, hostStep s = some (c, t) ∧ c.number = 0)

/-- O13. For every state s and fault e, step s is the fault e if and only if either the opcode byte at
PR is illegal (log 8) and e is illegalInstruction with that word, or the fetched instruction is an
SVC whose trap number n the table lacks and e is trapMiss n. Nothing else raises anything.
[60_exceptions.md section 1 (Synchronous exceptions: the two fatal conditions)] -/
def Obligations.OnlyTwoFatalConditions : Prop :=
  ∀ (s : State) (e : Fault), step s = .fault e ↔
    (illegalOp (s.load s.pr) ∧ e = .illegalInstruction (s.load s.pr)) ∨
    (∃ i n, fetchInstr s = .ok i ∧ missedTrap i s = some n ∧ e = .trapMiss n)

/-- O14. If the fetch at s gives an instruction i, and i is not an SVC whose trap number has no entry,
then step s is a next state, in every state of registers, flags and memory. [60_exceptions.md
section 1, no other condition raises anything, 60_exceptions.md section 3, summary of every event
that changes control flow] -/
def Obligations.EveryOtherStepCompletes : Prop :=
  ∀ (s : State) (i : Instr), fetchInstr s = .ok i → missedTrap i s = none →
    ∃ t, step s = .next t

/-- O15. In every state s, exec nop s is a next state t with PR one further modulo 65536 and the flags,
the general registers, SP, every word of memory and the trap table unchanged. [R100] -/
def Obligations.NopEffect : Prop :=
  ∀ s : State, ∃ t, exec .nop s = .next t ∧ t.pr = s.pr + 1 ∧ t.fr = s.fr ∧ WritesNoData s t

/-- O16. For r and x naming registers, in every state LD r,adr,x completes: GR[r] is the word that
memory held at the effective address computed from the old registers, PR is two further, the flags
and all other data are unchanged. That no flag is written is decision D5 (log 13).
[40_nop_load_store.md, LD r,adr,x (decision D5), 30_encoding.md section 2 (Operand resolution)] -/
def Obligations.LdEffect : Prop :=
  ∀ (r : RegField) (adr : Word) (x : RegField) (s : State), namesRegister r → namesRegister x →
    ∃ t, exec (.ld r adr x) s = .next t ∧ t.reg r = s.load (s.effAddr adr x) ∧ t.pr = s.pr + 2 ∧
      t.fr = s.fr ∧ WritesOnlyReg r s t

/-- O17. For r and x naming registers, in every state LD r,adr,x of the address completes: GR[r] is adr,
plus the old GR[x] when x is not 0, modulo 65536; PR is two further; the flags and all other data
are unchanged. The effective address used by every other statement is this value. [R102] -/
def Obligations.LadEffect : Prop :=
  ∀ (r : RegField) (adr : Word) (x : RegField) (s : State), namesRegister r → namesRegister x →
    ∃ t, exec (.lad r adr x) s = .next t ∧
      (t.reg r).toNat = (adr.toNat + if x = 0 then 0 else (s.reg x).toNat) % 65536 ∧
      t.reg r = s.effAddr adr x ∧ t.pr = s.pr + 2 ∧ t.fr = s.fr ∧ WritesOnlyReg r s t

/-- O18. For r1 and r2 naming registers, in every state LD r1,r2 completes: GR[r1] is the old GR[r2], PR
is one further, OF is 0, SF and ZF are the sign and zero of the value, and all other data is
unchanged. [R103] -/
def Obligations.LdRegisterEffect : Prop :=
  ∀ (r1 r2 : RegField) (s : State), namesRegister r1 → namesRegister r2 →
    ∃ t, exec (.ldRR r1 r2) s = .next t ∧ t.reg r1 = s.reg r2 ∧ t.pr = s.pr + 1 ∧
      FlagsAre False (s.reg r2) t ∧ WritesOnlyReg r1 s t

/-- O19. For r and x naming registers, in every state ST r,adr,x completes: the word at the effective
address is GR[r], every other word of memory is unchanged, PR is two further, no register, no flag,
not SP and no trap table entry changes. [R104] -/
def Obligations.StEffect : Prop :=
  ∀ (r : RegField) (adr : Word) (x : RegField) (s : State), namesRegister r → namesRegister x →
    ∃ t, exec (.st r adr x) s = .next t ∧ t.load (s.effAddr adr x) = s.reg r ∧
      SameMemBut (s.effAddr adr x) s t ∧ t.pr = s.pr + 2 ∧ SameRegs s t ∧ t.sp = s.sp ∧
      t.fr = s.fr ∧ t.traps = s.traps

/-- O20. For fields naming registers, in every state ADDA and SUBA complete in the memory form (right
operand the word at the effective address, PR two further) and in the register form (right operand
GR[r2], PR one further): the destination is the exact signed sum, or left minus right, modulo 65536,
OF is set exactly when the exact result lies outside the signed range, SF and ZF are those of the
truncated result, and no other register, no memory word, not SP and no trap table entry changes.
[R110, R112, R113, R116, R117] -/
def Obligations.SignedArithmeticEffect : Prop :=
  (∀ (r : RegField) (adr : Word) (x : RegField) (s : State), namesRegister r → namesRegister x →
    ∃ t, exec (.adda r adr x) s = .next t ∧ t.pr = s.pr + 2 ∧
      SignedResult r ((s.reg r).toInt + (s.load (s.effAddr adr x)).toInt) s t) ∧
  (∀ (r1 r2 : RegField) (s : State), namesRegister r1 → namesRegister r2 →
    ∃ t, exec (.addaRR r1 r2) s = .next t ∧ t.pr = s.pr + 1 ∧
      SignedResult r1 ((s.reg r1).toInt + (s.reg r2).toInt) s t) ∧
  (∀ (r : RegField) (adr : Word) (x : RegField) (s : State), namesRegister r → namesRegister x →
    ∃ t, exec (.suba r adr x) s = .next t ∧ t.pr = s.pr + 2 ∧
      SignedResult r ((s.reg r).toInt - (s.load (s.effAddr adr x)).toInt) s t) ∧
  (∀ (r1 r2 : RegField) (s : State), namesRegister r1 → namesRegister r2 →
    ∃ t, exec (.subaRR r1 r2) s = .next t ∧ t.pr = s.pr + 1 ∧
      SignedResult r1 ((s.reg r1).toInt - (s.reg r2).toInt) s t)

/-- O21. For fields naming registers, in every state ADDL and SUBL complete in the memory form (right
operand the word at the effective address, PR two further) and in the register form (right operand
GR[r2], PR one further): the destination is the exact unsigned sum, or left minus right, modulo
65536, OF is set exactly when the exact result lies outside the unsigned range, SF and ZF are those
of the truncated result, and no other register, no memory word, not SP and no trap table entry
changes. [R111, R114, R115, R118, R119] -/
def Obligations.UnsignedArithmeticEffect : Prop :=
  (∀ (r : RegField) (adr : Word) (x : RegField) (s : State), namesRegister r → namesRegister x →
    ∃ t, exec (.addl r adr x) s = .next t ∧ t.pr = s.pr + 2 ∧
      UnsignedResult r (((s.reg r).toNat : Int) + ((s.load (s.effAddr adr x)).toNat : Int)) s t) ∧
  (∀ (r1 r2 : RegField) (s : State), namesRegister r1 → namesRegister r2 →
    ∃ t, exec (.addlRR r1 r2) s = .next t ∧ t.pr = s.pr + 1 ∧
      UnsignedResult r1 (((s.reg r1).toNat : Int) + ((s.reg r2).toNat : Int)) s t) ∧
  (∀ (r : RegField) (adr : Word) (x : RegField) (s : State), namesRegister r → namesRegister x →
    ∃ t, exec (.subl r adr x) s = .next t ∧ t.pr = s.pr + 2 ∧
      UnsignedResult r (((s.reg r).toNat : Int) - ((s.load (s.effAddr adr x)).toNat : Int)) s t) ∧
  (∀ (r1 r2 : RegField) (s : State), namesRegister r1 → namesRegister r2 →
    ∃ t, exec (.sublRR r1 r2) s = .next t ∧ t.pr = s.pr + 1 ∧
      UnsignedResult r1 (((s.reg r1).toNat : Int) - ((s.reg r2).toNat : Int)) s t)

/-- O22. For fields naming registers, in every state AND, OR and XOR complete in the memory form (PR two
further) and in the register form (PR one further): bit i of the destination is the and, or,
exclusive or of bit i of the operands, OF is 0, SF and ZF are those of the result, and no other
register, no memory word, not SP and no trap table entry changes. [R130, R131, R132, R133, R134,
R135, R136] -/
def Obligations.LogicEffect : Prop :=
  (∀ (r : RegField) (adr : Word) (x : RegField) (s : State), namesRegister r → namesRegister x →
    ∃ t, exec (.and r adr x) s = .next t ∧ t.pr = s.pr + 2 ∧
      BitwiseResult r
        (fun i => (s.reg r).getLsbD i && (s.load (s.effAddr adr x)).getLsbD i) s t) ∧
  (∀ (r1 r2 : RegField) (s : State), namesRegister r1 → namesRegister r2 →
    ∃ t, exec (.andRR r1 r2) s = .next t ∧ t.pr = s.pr + 1 ∧
      BitwiseResult r1 (fun i => (s.reg r1).getLsbD i && (s.reg r2).getLsbD i) s t) ∧
  (∀ (r : RegField) (adr : Word) (x : RegField) (s : State), namesRegister r → namesRegister x →
    ∃ t, exec (.or r adr x) s = .next t ∧ t.pr = s.pr + 2 ∧
      BitwiseResult r
        (fun i => (s.reg r).getLsbD i || (s.load (s.effAddr adr x)).getLsbD i) s t) ∧
  (∀ (r1 r2 : RegField) (s : State), namesRegister r1 → namesRegister r2 →
    ∃ t, exec (.orRR r1 r2) s = .next t ∧ t.pr = s.pr + 1 ∧
      BitwiseResult r1 (fun i => (s.reg r1).getLsbD i || (s.reg r2).getLsbD i) s t) ∧
  (∀ (r : RegField) (adr : Word) (x : RegField) (s : State), namesRegister r → namesRegister x →
    ∃ t, exec (.xor r adr x) s = .next t ∧ t.pr = s.pr + 2 ∧
      BitwiseResult r
        (fun i => (s.reg r).getLsbD i ^^ (s.load (s.effAddr adr x)).getLsbD i) s t) ∧
  (∀ (r1 r2 : RegField) (s : State), namesRegister r1 → namesRegister r2 →
    ∃ t, exec (.xorRR r1 r2) s = .next t ∧ t.pr = s.pr + 1 ∧
      BitwiseResult r1 (fun i => (s.reg r1).getLsbD i ^^ (s.reg r2).getLsbD i) s t)

/-- O23. For fields naming registers, in every state CPA and CPL complete in the memory form (PR two
further) and in the register form (PR one further): OF is 0, SF says that the left operand is less
than the right one as signed numbers for CPA and as unsigned numbers for CPL, ZF that they are
equal; no register, no memory word, not SP and no trap table entry changes. [R140, R141, R142, R143,
R144] -/
def Obligations.CompareEffect : Prop :=
  (∀ (r : RegField) (adr : Word) (x : RegField) (s : State), namesRegister r → namesRegister x →
    ∃ t, exec (.cpa r adr x) s = .next t ∧ t.pr = s.pr + 2 ∧
      CompareResult ((s.reg r).toInt < (s.load (s.effAddr adr x)).toInt)
        (s.reg r = s.load (s.effAddr adr x)) s t) ∧
  (∀ (r1 r2 : RegField) (s : State), namesRegister r1 → namesRegister r2 →
    ∃ t, exec (.cpaRR r1 r2) s = .next t ∧ t.pr = s.pr + 1 ∧
      CompareResult ((s.reg r1).toInt < (s.reg r2).toInt) (s.reg r1 = s.reg r2) s t) ∧
  (∀ (r : RegField) (adr : Word) (x : RegField) (s : State), namesRegister r → namesRegister x →
    ∃ t, exec (.cpl r adr x) s = .next t ∧ t.pr = s.pr + 2 ∧
      CompareResult ((s.reg r).toNat < (s.load (s.effAddr adr x)).toNat)
        (s.reg r = s.load (s.effAddr adr x)) s t) ∧
  (∀ (r1 r2 : RegField) (s : State), namesRegister r1 → namesRegister r2 →
    ∃ t, exec (.cplRR r1 r2) s = .next t ∧ t.pr = s.pr + 1 ∧
      CompareResult ((s.reg r1).toNat < (s.reg r2).toNat) (s.reg r1 = s.reg r2) s t)

/-- O24. For r and x naming registers and a count n, the whole effective address, of at most 15, in
every state each shift completes with PR two further: SLA and SLL give v times 2^n modulo 65536, SRA
and SRL the quotient of v by 2^n; OF is bit 15-n for SLA and bit n-1 for SRA when n is not 0 and
else 0, bit 15 of v for SLL and bit 0 of v for SRL whatever n is (decision D6, log 12); SF and ZF
are those of the result; nothing else changes. [44_shift.md section 1 (The shifter), 44_shift.md
section 2 (The four instructions), 44_shift.md section 3, summary table] -/
def Obligations.ShiftEffect : Prop :=
  ∀ (r : RegField) (adr : Word) (x : RegField) (s : State) (n v : Nat), namesRegister r → namesRegister x →
    n = (s.effAddr adr x).toNat → v = (s.reg r).toNat → n ≤ 15 →
    (∃ t, exec (.sla r adr x) s = .next t ∧ t.pr = s.pr + 2 ∧
      ShiftResult r (v * 2 ^ n % 65536) (n ≠ 0 ∧ v / 2 ^ (15 - n) % 2 = 1) s t) ∧
    (∃ t, exec (.sra r adr x) s = .next t ∧ t.pr = s.pr + 2 ∧
      ShiftResult r (v / 2 ^ n) (n ≠ 0 ∧ v / 2 ^ (n - 1) % 2 = 1) s t) ∧
    (∃ t, exec (.sll r adr x) s = .next t ∧ t.pr = s.pr + 2 ∧
      ShiftResult r (v * 2 ^ n % 65536) (v / 2 ^ 15 = 1) s t) ∧
    (∃ t, exec (.srl r adr x) s = .next t ∧ t.pr = s.pr + 2 ∧
      ShiftResult r (v / 2 ^ n) (v % 2 = 1) s t)

/-- O25. For r and x naming registers and a count n of 16 or more, in every state each shift completes
with PR two further, result 0, SF 0 and ZF 1; OF is 0 for SLA, bit 15 of v for SRA when n is 16 and
0 above, bit 15 of v for SLL, bit 0 of v for SRL; nothing else changes. Decision D7, log 11.
[44_shift.md section 3 (Counts of 16 and more; decision D7)] -/
def Obligations.LongShiftEffect : Prop :=
  ∀ (r : RegField) (adr : Word) (x : RegField) (s : State) (n v : Nat), namesRegister r → namesRegister x →
    n = (s.effAddr adr x).toNat → v = (s.reg r).toNat → 16 ≤ n →
    (∃ t, exec (.sla r adr x) s = .next t ∧ t.pr = s.pr + 2 ∧
      ShiftResult r (0) (False) s t) ∧
    (∃ t, exec (.sra r adr x) s = .next t ∧ t.pr = s.pr + 2 ∧
      ShiftResult r (0) (n = 16 ∧ v / 2 ^ 15 = 1) s t) ∧
    (∃ t, exec (.sll r adr x) s = .next t ∧ t.pr = s.pr + 2 ∧
      ShiftResult r (0) (v / 2 ^ 15 = 1) s t) ∧
    (∃ t, exec (.srl r adr x) s = .next t ∧ t.pr = s.pr + 2 ∧
      ShiftResult r (0) (v % 2 = 1) s t)

/-- O26. For x naming a register, in every state each of JMI, JNZ, JZE, JUMP, JPL, JOV completes: when
its condition on the flags (SF = 1; ZF = 0; ZF = 1; always; SF = 0 and ZF = 0; OF = 1) holds, PR is
the effective address, and otherwise PR is two further; no flag, no register, not SP, no memory word
and no trap table entry changes. [R171, R172, R173, R174, R175, R176, R177] -/
def Obligations.JumpEffect : Prop :=
  ∀ (adr : Word) (x : RegField) (s : State), namesRegister x →
    (∃ t, exec (.jmi adr x) s = .next t ∧
      (s.fr.sf = true → JumpResult (s.effAddr adr x) s t) ∧ (¬(s.fr.sf = true) → JumpResult (s.pr + 2) s t)) ∧
    (∃ t, exec (.jnz adr x) s = .next t ∧
      (s.fr.zf = false → JumpResult (s.effAddr adr x) s t) ∧ (¬(s.fr.zf = false) → JumpResult (s.pr + 2) s t)) ∧
    (∃ t, exec (.jze adr x) s = .next t ∧
      (s.fr.zf = true → JumpResult (s.effAddr adr x) s t) ∧ (¬(s.fr.zf = true) → JumpResult (s.pr + 2) s t)) ∧
    (∃ t, exec (.jump adr x) s = .next t ∧
      (True → JumpResult (s.effAddr adr x) s t) ∧ (¬(True) → JumpResult (s.pr + 2) s t)) ∧
    (∃ t, exec (.jpl adr x) s = .next t ∧
      (s.fr.sf = false ∧ s.fr.zf = false → JumpResult (s.effAddr adr x) s t) ∧ (¬(s.fr.sf = false ∧ s.fr.zf = false) → JumpResult (s.pr + 2) s t)) ∧
    (∃ t, exec (.jov adr x) s = .next t ∧
      (s.fr.of = true → JumpResult (s.effAddr adr x) s t) ∧ (¬(s.fr.of = true) → JumpResult (s.pr + 2) s t))

/-- O27. For x naming a register, in every state PUSH adr,x completes: SP is one lower modulo 65536, the
word at the new SP is the effective address itself, PR is two further, and no other word, no
register, no flag and no trap table entry changes. [R180] -/
def Obligations.PushEffect : Prop :=
  ∀ (adr : Word) (x : RegField) (s : State), namesRegister x →
    ∃ t, exec (.push adr x) s = .next t ∧ t.pr = s.pr + 2 ∧ PushResult (s.effAddr adr x) s t

/-- O28. For r naming a register, in every state POP r completes: GR[r] is the word at the old SP, SP is
one higher modulo 65536, PR is one further, and no other register, no flag, no word of memory and no
trap table entry changes. [R181] -/
def Obligations.PopEffect : Prop :=
  ∀ (r : RegField) (s : State), namesRegister r →
    ∃ t, exec (.pop r) s = .next t ∧ t.reg r = s.load s.sp ∧ t.sp = s.sp + 1 ∧ t.pr = s.pr + 1 ∧
      SameRegsBut r s t ∧ t.fr = s.fr ∧ SameMem s t ∧ t.traps = s.traps

/-- O29. For x naming a register, in every state CALL adr,x completes: PR is the effective address, the
word at the new SP, one lower modulo 65536, is the address of the instruction after the CALL, and no
other word, no register, no flag and no trap table entry changes. [R182] -/
def Obligations.CallEffect : Prop :=
  ∀ (adr : Word) (x : RegField) (s : State), namesRegister x →
    ∃ t, exec (.call adr x) s = .next t ∧ t.pr = s.effAddr adr x ∧ PushResult (s.pr + 2) s t

/-- O30. In every state RET completes: PR is the word at the old SP, SP is one higher modulo 65536, and
no register, no flag, no word of memory and no trap table entry changes. [R183] -/
def Obligations.RetEffect : Prop :=
  ∀ s : State, ∃ t, exec .ret s = .next t ∧ t.pr = s.load s.sp ∧ t.sp = s.sp + 1 ∧
    SameRegs s t ∧ t.fr = s.fr ∧ SameMem s t ∧ t.traps = s.traps

/-- O31. For x naming a register, in every state whose trap table gives target a for the effective
address, SVC adr,x completes: PR is a, the word at the new SP, one lower, is the address after the
two words of the SVC, and no other word, no register, no flag and no trap table entry changes.
[R207] -/
def Obligations.SvcHitEffect : Prop :=
  ∀ (adr : Word) (x : RegField) (s : State) (a : Word), namesRegister x →
    TrapTable.target s.traps (s.effAddr adr x) = some a →
    ∃ t, exec (.svc adr x) s = .next t ∧ t.pr = a ∧ PushResult (s.pr + 2) s t

/-- O32. For x naming a register, SVC adr,x in a state whose trap table has no entry for the effective
address n is the fault trapMiss n; and an instruction whose execution is the fault trapMiss n is an
SVC whose effective address is n and whose trap table lacks n. [R204] -/
def Obligations.SvcMissFaults : Prop :=
  (∀ (adr : Word) (x : RegField) (s : State), namesRegister x →
    TrapTable.target s.traps (s.effAddr adr x) = none →
    exec (.svc adr x) s = .fault (.trapMiss (s.effAddr adr x))) ∧
  (∀ (i : Instr) (s : State) (n : Word), exec i s = .fault (.trapMiss n) →
    ∃ adr x, i = .svc adr x ∧ s.effAddr adr x = n ∧ TrapTable.target s.traps n = none)

/-- O33. If exec i s is a next state t, every general register except the one in the writes column of
the spec's table for i (none for NOP, RET, ST, the compares, the jumps, PUSH, CALL, SVC) is
unchanged. [10_state.md section 2, which instructions read and write general registers] -/
def Obligations.RegisterWriteTable : Prop :=
  ∀ (i : Instr) (s t : State), exec i s = .next t →
    ∀ f : RegField, regWritten i ≠ some f → t.reg f = s.reg f

/-- O34. If the register field f is not in the reads column of the spec's table for i, then changing
GR[f] before i changes nothing in its outcome but GR[f] itself, and not even that when i overwrites
it; a fault or refusal is the same. [10_state.md section 2, which instructions read and write
general registers] -/
def Obligations.RegisterReadTable : Prop :=
  ∀ (i : Instr) (s : State) (f : RegField) (v : Word), f ∉ regsRead i →
    exec i (s.setReg f v) =
      match exec i s with
      | .next t => .next (if regWritten i = some f then t else t.setReg f v)
      | .fault e => .fault e
      | .refused e => .refused e

/-- O35. An instruction outside the list of flag writers leaves all three flags unchanged when it
completes; and for every instruction but the five conditional jumps, changing the flags beforehand
changes nothing in the outcome but the flags themselves, and not even those when the instruction is
a flag writer. That LD from memory is no writer is decision D5 (log 13). [10_state.md section 5,
which instructions write FR, 10_state.md section 5, FR is read only by the conditional jumps] -/
def Obligations.FlagTables : Prop :=
  (∀ (i : Instr) (s t : State), exec i s = .next t → writesFlags i = false → t.fr = s.fr) ∧
  (∀ (i : Instr) (s : State) (f : Flags), readsFlags i = false →
    exec i (s.setFlags f) =
      match exec i s with
      | .next t => .next (if writesFlags i = true then t else t.setFlags f)
      | .fault e => .fault e
      | .refused e => .refused e)

/-- O36. If exec i s is a next state t, SP is one lower modulo 65536 for PUSH, CALL and SVC, one higher
for POP and RET, and unchanged for every other instruction. [10_state.md section 4, SP is written
only by push and pop] -/
def Obligations.StackPointerTable : Prop :=
  ∀ (i : Instr) (s t : State), exec i s = .next t → t.sp = spAfter i s

/-- O37. If exec i s is a next state t: for ST the word at the effective address is GR[r], for PUSH the
word at SP - 1 is the effective address, for CALL and SVC the word at SP - 1 is the address after
the instruction, and every other word is unchanged; for every other instruction every word is
unchanged. [20_memory.md section 4 (Accesses of each instruction)] -/
def Obligations.MemoryWriteTable : Prop :=
  ∀ (i : Instr) (s t : State), exec i s = .next t →
    (∀ a v, stored i s = some (a, v) → t.load a = v ∧ SameMemBut a s t) ∧
    (stored i s = none → SameMem s t)

/-- O38. If step s is a next state t, the trap tables of s and t are equal; and for every instruction
that is not an SVC, exec with another trap table answers the same outcome with that trap table in
it. [10_state.md section 6, the trap table, 47_svc.md, the trap table lookup] -/
def Obligations.TrapTableRole : Prop :=
  (∀ s t : State, step s = .next t → t.traps = s.traps) ∧
  (∀ (i : Instr) (s : State) (tt : TrapTable), (∀ adr x, i ≠ .svc adr x) →
    exec i { s with traps := tt } =
      match exec i s with
      | .next t => .next { t with traps := tt }
      | .fault e => .fault e
      | .refused e => .refused e)

/-- O39. If exec i s is a next state t, PR is: the effective address for a jump that is taken and for
CALL, the popped word for RET, the configured target for SVC, and otherwise the address one or two
words further modulo 65536, by the length of the instruction. [60_exceptions.md section 3, summary
of every event that changes control flow] -/
def Obligations.ControlFlowTable : Prop :=
  ∀ (i : Instr) (s t : State), exec i s = .next t → t.pr = nextPr i s

/-- O40. State.reset meets Canonical: its memory and its trap table list keys in strictly rising order
below 65536, and its memory lists no word that an unlisted address would read as. The canonical form
is the model's (log 1, log 2, log 7). [10_state.md section 7 (Reset values)] -/
def Obligations.ResetInvariant : Prop :=
  Canonical State.reset

/-- O41. For every state s that meets Canonical, if step s is a next state t, then t meets Canonical.
The canonical form is the model's (log 1, log 2, log 7). [20_memory.md section 1 (The address
space), 10_state.md section 6, the trap table] -/
def Obligations.StepKeepsInvariant : Prop :=
  ∀ s t : State, Canonical s → step s = .next t → Canonical t

/-- O42. For every state s that meets Canonical, the states after setProgramCounter, setStackPointer,
callInto, a memory poke, the loading of an image and the configuration of a trap meet Canonical, and
so does the state after a setRegister that is accepted. [70_reset_and_hazards.md section 3 (The host
interface)] -/
def Obligations.HostKeepsInvariant : Prop :=
  ∀ s : State, Canonical s →
    (∀ v, Canonical (hostSetProgramCounter v s)) ∧ (∀ v, Canonical (hostSetStackPointer v s)) ∧
    (∀ a, Canonical (hostCallInto a s)) ∧ (∀ a v, Canonical (hostPoke a v s)) ∧
    (∀ o ws, Canonical (hostLoadImage o ws s)) ∧ (∀ n a, Canonical (hostTrapSet n a s)) ∧
    (∀ i v t, hostSetRegister i v s = .next t → Canonical t)

/-- O43. If two memories are in canonical form and every one of the 65536 addresses reads the same in
both, the two are equal as data. The canonical form is the model's (log 1, log 2). [20_memory.md
section 1 (The address space)] -/
def Obligations.CanonicalMemoryExtensional : Prop :=
  ∀ m m' : Memory, Memory.wf m → Memory.wf m' → (∀ a, Memory.read m a = Memory.read m' a) →
    m = m'

/-- O44. If step s is a next state t, every address that is not a write access of stepAccesses s reads
in t as in s; if step s is a fault or a refusal, stepAccesses s has no write access. Decision D18,
log 15. [20_memory.md section 4 (Accesses of each instruction; decision D18)] -/
def Obligations.WritesAreListed : Prop :=
  ∀ s : State,
    (∀ t, step s = .next t → ∀ a, .write a ∉ stepAccesses s → t.load a = s.load a) ∧
    (Stops (step s) → ∀ a, .write a ∉ stepAccesses s)

/-- O45. If a memory m agrees with that of s at every read access of stepAccesses s, then step from s
with memory m has the same kind of outcome: the same fault, the same refusal, or a next state with
the same registers, PR, SP, flags and trap table, the same word at every write access, and at every
other address the word that m holds. Log 15. [20_memory.md section 4 (Accesses of each instruction;
decision D18), 20_memory.md section 2, no address has side effects] -/
def Obligations.ReadsAreListed : Prop :=
  ∀ (s : State) (m : Memory),
    (∀ a, .read a ∈ stepAccesses s → Memory.read m a = s.load a) →
      match step s with
      | .next t => ∃ u, step { s with mem := m } = .next u ∧ u.gr = t.gr ∧ u.pr = t.pr ∧
          u.sp = t.sp ∧ u.fr = t.fr ∧ u.traps = t.traps ∧
          ∀ a, (.write a ∈ stepAccesses s → u.load a = t.load a) ∧
            (.write a ∉ stepAccesses s → u.load a = Memory.read m a)
      | .fault e => step { s with mem := m } = .fault e
      | .refused e => step { s with mem := m } = .refused e

/-- O46. For x and r naming registers, in every state PUSH adr,x completes and POP r in the state after
it completes: GR[r] is the effective address of the PUSH and SP is as before the PUSH, also where SP
wraps; every other register and the flags are as before. [46_stack_call.md, POP r, 10_state.md
section 4, the two stack primitives, 95_test_vectors.md S5] -/
def Obligations.PushPopRoundTrip : Prop :=
  ∀ (adr : Word) (x r : RegField) (s : State), namesRegister x → namesRegister r →
    ∃ t u, exec (.push adr x) s = .next t ∧ exec (.pop r) t = .next u ∧
      u.reg r = s.effAddr adr x ∧ u.sp = s.sp ∧ SameRegsBut r s u ∧ u.fr = s.fr

/-- O47. For x naming a register, in every state CALL adr,x completes and RET in the state after it
completes, with PR the address after the CALL and SP, the registers and the flags as before it; the
same holds for SVC adr,x in every state whose trap table has an entry for its effective address.
[46_stack_call.md, CALL adr,x, 60_exceptions.md section 2 (The SVC trap: entry and return),
95_test_vectors.md S6, S7] -/
def Obligations.EnterReturnRoundTrip : Prop :=
  ∀ (adr : Word) (x : RegField) (s : State), namesRegister x →
    (∃ t u, exec (.call adr x) s = .next t ∧ exec .ret t = .next u ∧
      u.pr = s.pr + 2 ∧ u.sp = s.sp ∧ SameRegs s u ∧ u.fr = s.fr) ∧
    (∀ a, TrapTable.target s.traps (s.effAddr adr x) = some a →
      ∃ t u, exec (.svc adr x) s = .next t ∧ t.pr = a ∧ exec .ret t = .next u ∧
        u.pr = s.pr + 2 ∧ u.sp = s.sp ∧ SameRegs s u ∧ u.fr = s.fr)

/-- O48. For fields naming registers, ADDA and ADDL from the same state give states that differ at most
in OF, and so do SUBA and SUBL, in the memory form and in the register form. [41_arithmetic.md
section 4 (Integer arithmetic laws)] -/
def Obligations.SignedUnsignedDifferInOverflowOnly : Prop :=
  ∀ (r : RegField) (adr : Word) (x : RegField) (s : State), namesRegister r → namesRegister x →
    (∃ t o, exec (.adda r adr x) s = .next t ∧
      exec (.addl r adr x) s = .next (t.setFlags { t.fr with of := o })) ∧
    (∃ t o, exec (.suba r adr x) s = .next t ∧
      exec (.subl r adr x) s = .next (t.setFlags { t.fr with of := o })) ∧
    (∃ t o, exec (.addaRR r x) s = .next t ∧
      exec (.addlRR r x) s = .next (t.setFlags { t.fr with of := o })) ∧
    (∃ t o, exec (.subaRR r x) s = .next t ∧
      exec (.sublRR r x) s = .next (t.setFlags { t.fr with of := o }))

/-- O49. For fields naming registers, after CPA r1,r2 the jumps JMI, JZE and JPL adr,x go to the
effective address exactly when GR[r1] is less than, equal to, greater than GR[r2] as signed numbers,
and otherwise to the word after the jump, three words after the compare; after CPL r1,r2 the same
holds for unsigned numbers; SF and ZF are never both 1. [43_compare.md, the comparator, 45_jump.md,
JMI, JZE, JPL] -/
def Obligations.CompareThenJump : Prop :=
  ∀ (r1 r2 x : RegField) (adr : Word) (s : State),
    namesRegister r1 → namesRegister r2 → namesRegister x →
    (∃ t, exec (.cpaRR r1 r2) s = .next t ∧ ¬(t.fr.sf = true ∧ t.fr.zf = true) ∧
      ∃ m z p, exec (.jmi adr x) t = .next m ∧ exec (.jze adr x) t = .next z ∧
        exec (.jpl adr x) t = .next p ∧
        m.pr = (if (s.reg r1).toInt < (s.reg r2).toInt then s.effAddr adr x else s.pr + 3) ∧
        z.pr = (if (s.reg r1).toInt = (s.reg r2).toInt then s.effAddr adr x else s.pr + 3) ∧
        p.pr = (if (s.reg r2).toInt < (s.reg r1).toInt then s.effAddr adr x else s.pr + 3)) ∧
    (∃ t, exec (.cplRR r1 r2) s = .next t ∧ ¬(t.fr.sf = true ∧ t.fr.zf = true) ∧
      ∃ m z p, exec (.jmi adr x) t = .next m ∧ exec (.jze adr x) t = .next z ∧
        exec (.jpl adr x) t = .next p ∧
        m.pr = (if (s.reg r1).toNat < (s.reg r2).toNat then s.effAddr adr x else s.pr + 3) ∧
        z.pr = (if (s.reg r1).toNat = (s.reg r2).toNat then s.effAddr adr x else s.pr + 3) ∧
        p.pr = (if (s.reg r2).toNat < (s.reg r1).toNat then s.effAddr adr x else s.pr + 3))

/-- O50. For r and x naming registers and a count of at least 1, SLA completes and, when the count is at
most 15, its OF equals its SF; SRA completes and its SF is 0. For counts of 16 and more this rests
on decision D7 (log 11). [93_implementation_defined.md U5, 44_shift.md section 2, SRA] -/
def Obligations.ArithmeticShiftFlags : Prop :=
  ∀ (r : RegField) (adr : Word) (x : RegField) (s : State), namesRegister r → namesRegister x →
    s.effAddr adr x ≠ 0 →
    (∃ t, exec (.sla r adr x) s = .next t ∧ ((s.effAddr adr x).toNat ≤ 15 → t.fr.of = t.fr.sf)) ∧
    (∃ t, exec (.sra r adr x) s = .next t ∧ t.fr.sf = false)

/-- O51. For r and x naming registers, if ST r,adr,x stores at the address after itself and the stored
word, with the word that follows it in memory, decodes to i, then the ST completes and the next step
is the execution of i. [20_memory.md section 5, instruction fetch is coherent with stores] -/
def Obligations.StoredWordIsFetched : Prop :=
  ∀ (r : RegField) (adr : Word) (x : RegField) (s : State) (i : Instr), namesRegister r → namesRegister x →
    s.effAddr adr x = s.pr + 2 → decodeWords (s.reg r) (s.load (s.pr + 3)) = .ok i →
    ∃ t, exec (.st r adr x) s = .next t ∧ step t = exec i t

/-- O52. For x naming a register, SVC adr,x in the state after reset is the fault trapMiss with its
effective address, because the trap table is empty after reset (decision D12). [10_state.md section
7, the trap table is empty after reset (decision D12)] -/
def Obligations.ResetHasNoTraps : Prop :=
  ∀ (adr : Word) (x : RegField), namesRegister x →
    exec (.svc adr x) State.reset = .fault (.trapMiss (State.reset.effAddr adr x))

/-- O53. If the low nbits bits of w decode to i, then in every state the step after withFetchWord places
them at PR is the execution of i, and placing them changes no word but the two at PR and after it,
no register, no flag and no trap table entry. [70_reset_and_hazards.md section 3, memory pokes,
30_encoding.md section 4 (The step: fetch, decode, dispatch)] -/
def Obligations.PlacedInstructionRuns : Prop :=
  ∀ (s : State) (nbits w : Nat) (i : Instr), decodeTableWord nbits w = some i →
    step (s.withFetchWord nbits w) = exec i (s.withFetchWord nbits w) ∧
    (s.withFetchWord nbits w).gr = s.gr ∧ (s.withFetchWord nbits w).pr = s.pr ∧
    (s.withFetchWord nbits w).sp = s.sp ∧ (s.withFetchWord nbits w).fr = s.fr ∧
    (s.withFetchWord nbits w).traps = s.traps ∧
    ∀ a, a ≠ s.pr → a ≠ s.pr + 1 → (s.withFetchWord nbits w).load a = s.load a

/-- O54. setRegister with an index below 8 gives a state in which getRegister answers the value modulo
65536 and no other register, no flag, not PR, not SP and no memory word changes; an index of 8 or
more is refused by both; setProgramCounter and setStackPointer write the value modulo 65536 and
change nothing else. Decision D15, log 17. [70_reset_and_hazards.md section 3, setRegister and
getRegister, setProgramCounter, setStackPointer (decision D15)] -/
def Obligations.HostRegisterOperations : Prop :=
  (∀ (i : Nat) (v : Int) (s : State), i < 8 →
    ∃ t w, hostSetRegister i v s = .next t ∧ hostGetRegister i t = .ok w ∧
      (w.toNat : Int) = v % 65536 ∧ (∀ j < 8, j ≠ i → hostGetRegister j t = hostGetRegister j s) ∧
      t.fr = s.fr ∧ t.pr = s.pr ∧ t.sp = s.sp ∧ SameMem s t ∧ t.traps = s.traps) ∧
  (∀ (i : Nat) (v : Int) (s : State), 8 ≤ i →
    hostSetRegister i v s = .refused (.noSuchRegister i) ∧
    hostGetRegister i s = .error (.noSuchRegister i)) ∧
  (∀ (v : Int) (s : State),
    ((hostGetProgramCounter (hostSetProgramCounter v s)).toNat : Int) = v % 65536 ∧
    ((hostGetStackPointer (hostSetStackPointer v s)).toNat : Int) = v % 65536 ∧
    hostSetProgramCounter v s = { s with pr := (hostSetProgramCounter v s).pr } ∧
    hostSetStackPointer v s = { s with sp := (hostSetStackPointer v s).sp })

/-- O55. In every state and for every integer address, after callInto PR is the address modulo 65536, SP
is one lower, the word at the new SP is the PR before, and no other word, no register, no flag and
no trap table entry changes. That an integer address outside 0 to 65535 is reduced modulo 65536 is
decision D15, log 17. [70_reset_and_hazards.md section 3, callInto (decision D15)] -/
def Obligations.HostCallIntoEffect : Prop :=
  ∀ (addr : Int) (s : State),
    ((hostCallInto addr s).pr.toNat : Int) = addr % 65536 ∧ PushResult s.pr s (hostCallInto addr s)

/-- O56. After a poke a peek at that address answers the value modulo 65536, every other address reads
as before, and nothing but memory changes; an image of at most 65536 words reads back word by word
from its origin, wrapping; after the loading of any image every address that is none of those of its
words reads as before, and nothing but memory changes; after trap_set the number has the target,
every other number is as before, and nothing but the trap table changes. Decisions D11, D14, D15;
log 7, log 17. [70_reset_and_hazards.md section 3, memory pokes and peeks, trap table configuration
(decisions D11, D14, D15), 20_memory.md section 1 (The address space), the access primitives] -/
def Obligations.HostMemoryAndTraps : Prop :=
  (∀ (a v : Int) (s : State), ((hostPeek a (hostPoke a v s)).toNat : Int) = v % 65536 ∧
    (∀ b, trunc16 b ≠ trunc16 a → hostPeek b (hostPoke a v s) = hostPeek b s) ∧
    hostPoke a v s = { s with mem := (hostPoke a v s).mem }) ∧
  (∀ (o : Word) (ws : List Word) (s : State) (k : Nat) (h : k < ws.length), ws.length ≤ 65536 →
    (hostLoadImage o ws s).load (o + BitVec.ofNat 16 k) = ws[k]) ∧
  (∀ (o : Word) (ws : List Word) (s : State),
    (∀ b, (∀ k < ws.length, b ≠ o + BitVec.ofNat 16 k) →
      (hostLoadImage o ws s).load b = s.load b) ∧
    hostLoadImage o ws s = { s with mem := (hostLoadImage o ws s).mem }) ∧
  (∀ (n a : Int) (s : State),
    TrapTable.target (hostTrapSet n a s).traps (trunc16 n) = some (trunc16 a) ∧
    (∀ k, k ≠ trunc16 n →
      TrapTable.target (hostTrapSet n a s).traps k = TrapTable.target s.traps k) ∧
    hostTrapSet n a s = { s with traps := (hostTrapSet n a s).traps })

/-- O57. When PR is the sentinel the run ends there with the state unchanged, whatever word PR
addresses; a run that ends at the sentinel has PR there; one that ends in a fatal outcome f ends in
a state whose step is the fault f and whose PR is not the sentinel; one that ends at the limit after
k steps is the state that k steps reach. Decision D17, log 21. [70_reset_and_hazards.md section 4
(The end of a run; decision D17)] -/
def Obligations.DriveEnds : Prop :=
  ∀ (sentinel : Word) (k : Nat) (s : State),
    (s.pr = sentinel → drive sentinel k s = .sentinel s) ∧
    (∀ t, drive sentinel k s = .sentinel t → t.pr = sentinel) ∧
    (∀ f t, drive sentinel k s = .fatal f t → step t = .fault f ∧ t.pr ≠ sentinel) ∧
    (∀ t, drive sentinel k s = .limit t → t.pr ≠ sentinel ∧ Sys2Proof.core.run k s = .next t)
end

