-- ==== Sys2Proof/Laws/Decode.lean ====
section
/-! SUPPORT. The fields of an instruction word and the word of its fields are inverse to each other
(spec R71, R91), and what decoding a word can answer, said once for each answer (R81, R82). -/

namespace Sys2Proof

/-- The fields of a word put together are the fields read from it. -/
theorem descriptor_firstWord (op : BitVec 8) (a b : RegField) :
    descriptor (firstWord op a b) = ⟨op, a, b⟩ := by
  simp only [descriptor, firstWord, Descriptor.mk.injEq]
  refine ⟨?_, ?_, ?_⟩ <;> ext i hi
  · rw [BitVec.getElem_extractLsb', BitVec.getLsbD_append, BitVec.getLsbD_append]
    simp [hi, show ¬ 8 + i < 4 by omega, show ¬ 8 + i - 4 < 4 by omega, show 8 + i - 4 - 4 = i by omega]
  · rw [BitVec.getElem_extractLsb', BitVec.getLsbD_append, BitVec.getLsbD_append]
    simp [hi, show 4 + i - 4 = i by omega]
  · rw [BitVec.getElem_extractLsb', BitVec.getLsbD_append]
    simp [hi]

/-- The fields read from a word, put together, are the word. -/
theorem firstWord_descriptor (w : Word) :
    firstWord (descriptor w).op (descriptor w).r (descriptor w).x = w := by
  refine BitVec.eq_of_getLsbD_eq fun i hi => ?_
  simp only [descriptor, firstWord, BitVec.getLsbD_append, BitVec.getLsbD_extractLsb']
  by_cases h : i < 4
  · simp [h]
  · by_cases h' : i - 4 < 4
    · simp [h, h', show 4 + (i - 4) = i by omega]
    · simp [h, h', show i - 4 - 4 < 8 by omega, show 8 + (i - 4 - 4) = i by omega]

/-- A word decodes to an instruction when its opcode selects it and no used field is reserved. -/
theorem decodeWords_eq_ok (w adr : Word) (i : Instr) :
    decodeWords w adr = .ok i ↔
      instrOf (descriptor w) adr = some i ∧ firstReserved i.usedFields = none := by
  unfold decodeWords
  split
  next h => simp [h]
  next j h => split <;> simp [h] <;> rintro rfl <;> simp [*]

/-- A word is rejected by a reserved field when its opcode selects an instruction whose first reserved
used field is that one (R82). -/
theorem decodeWords_eq_reserved (w adr : Word) (f : RegField) :
    decodeWords w adr = .error (.reservedField f) ↔
      ∃ i, instrOf (descriptor w) adr = some i ∧ firstReserved i.usedFields = some f := by
  unfold decodeWords
  split
  next h => simp [h]
  next j h => split <;> simp [*]

/-- A word is rejected as illegal when its opcode selects no instruction, and the rejection carries the
word (R81). -/
theorem decodeWords_eq_illegal (w adr v : Word) :
    decodeWords w adr = .error (.illegalInstruction v) ↔
      instrOf (descriptor w) adr = none ∧ v = w := by
  unfold decodeWords
  split
  next h => simp [h, eq_comm]
  next j h => split <;> simp [h]

end Sys2Proof
end

