-- ==== Sys2Proof/Laws/State.lean ====
section
/-! SUPPORT. What each update of the state does to each field: one lemma per field per update, so that
no proof unfolds a record update. -/

namespace Sys2Proof.Machine

variable (s : State)

@[simp] theorem State.setReg_gr (f : RegField) (v : Word) : (s.setReg f v).gr = s.gr.setIfInBounds f.toNat v := rfl
@[simp] theorem State.setReg_pr (f : RegField) (v : Word) : (s.setReg f v).pr = s.pr := rfl
@[simp] theorem State.setReg_sp (f : RegField) (v : Word) : (s.setReg f v).sp = s.sp := rfl
@[simp] theorem State.setReg_fr (f : RegField) (v : Word) : (s.setReg f v).fr = s.fr := rfl
@[simp] theorem State.setReg_mem (f : RegField) (v : Word) : (s.setReg f v).mem = s.mem := rfl
@[simp] theorem State.setReg_traps (f : RegField) (v : Word) : (s.setReg f v).traps = s.traps := rfl

@[simp] theorem State.setFlags_gr (f : Flags) : (s.setFlags f).gr = s.gr := rfl
@[simp] theorem State.setFlags_pr (f : Flags) : (s.setFlags f).pr = s.pr := rfl
@[simp] theorem State.setFlags_sp (f : Flags) : (s.setFlags f).sp = s.sp := rfl
@[simp] theorem State.setFlags_fr (f : Flags) : (s.setFlags f).fr = f := rfl
@[simp] theorem State.setFlags_mem (f : Flags) : (s.setFlags f).mem = s.mem := rfl
@[simp] theorem State.setFlags_traps (f : Flags) : (s.setFlags f).traps = s.traps := rfl

@[simp] theorem State.writeResult_gr (f : RegField) (res : Word × Flags) : (s.writeResult f res).gr = s.gr.setIfInBounds f.toNat res.1 := rfl
@[simp] theorem State.writeResult_pr (f : RegField) (res : Word × Flags) : (s.writeResult f res).pr = s.pr := rfl
@[simp] theorem State.writeResult_sp (f : RegField) (res : Word × Flags) : (s.writeResult f res).sp = s.sp := rfl
@[simp] theorem State.writeResult_fr (f : RegField) (res : Word × Flags) : (s.writeResult f res).fr = res.2 := rfl
@[simp] theorem State.writeResult_mem (f : RegField) (res : Word × Flags) : (s.writeResult f res).mem = s.mem := rfl
@[simp] theorem State.writeResult_traps (f : RegField) (res : Word × Flags) : (s.writeResult f res).traps = s.traps := rfl

@[simp] theorem State.advance_gr (n : Nat) : (s.advance n).gr = s.gr := rfl
@[simp] theorem State.advance_pr (n : Nat) : (s.advance n).pr = s.pr + BitVec.ofNat 16 n := rfl
@[simp] theorem State.advance_sp (n : Nat) : (s.advance n).sp = s.sp := rfl
@[simp] theorem State.advance_fr (n : Nat) : (s.advance n).fr = s.fr := rfl
@[simp] theorem State.advance_mem (n : Nat) : (s.advance n).mem = s.mem := rfl
@[simp] theorem State.advance_traps (n : Nat) : (s.advance n).traps = s.traps := rfl

@[simp] theorem State.jumpTo_gr (t : Word) : (s.jumpTo t).gr = s.gr := rfl
@[simp] theorem State.jumpTo_pr (t : Word) : (s.jumpTo t).pr = t := rfl
@[simp] theorem State.jumpTo_sp (t : Word) : (s.jumpTo t).sp = s.sp := rfl
@[simp] theorem State.jumpTo_fr (t : Word) : (s.jumpTo t).fr = s.fr := rfl
@[simp] theorem State.jumpTo_mem (t : Word) : (s.jumpTo t).mem = s.mem := rfl
@[simp] theorem State.jumpTo_traps (t : Word) : (s.jumpTo t).traps = s.traps := rfl

@[simp] theorem State.store_gr (a v : Word) : (s.store a v).gr = s.gr := rfl
@[simp] theorem State.store_pr (a v : Word) : (s.store a v).pr = s.pr := rfl
@[simp] theorem State.store_sp (a v : Word) : (s.store a v).sp = s.sp := rfl
@[simp] theorem State.store_fr (a v : Word) : (s.store a v).fr = s.fr := rfl
@[simp] theorem State.store_mem (a v : Word) : (s.store a v).mem = Memory.write s.mem a v := rfl
@[simp] theorem State.store_traps (a v : Word) : (s.store a v).traps = s.traps := rfl

@[simp] theorem State.setSp_gr (v : Word) : (s.setSp v).gr = s.gr := rfl
@[simp] theorem State.setSp_pr (v : Word) : (s.setSp v).pr = s.pr := rfl
@[simp] theorem State.setSp_sp (v : Word) : (s.setSp v).sp = v := rfl
@[simp] theorem State.setSp_fr (v : Word) : (s.setSp v).fr = s.fr := rfl
@[simp] theorem State.setSp_mem (v : Word) : (s.setSp v).mem = s.mem := rfl
@[simp] theorem State.setSp_traps (v : Word) : (s.setSp v).traps = s.traps := rfl

@[simp] theorem State.push_gr (v : Word) : (s.push v).gr = s.gr := rfl
@[simp] theorem State.push_pr (v : Word) : (s.push v).pr = s.pr := rfl
@[simp] theorem State.push_sp (v : Word) : (s.push v).sp = s.sp - 1 := rfl
@[simp] theorem State.push_fr (v : Word) : (s.push v).fr = s.fr := rfl
@[simp] theorem State.push_mem (v : Word) : (s.push v).mem = Memory.write s.mem (s.sp - 1) v := rfl
@[simp] theorem State.push_traps (v : Word) : (s.push v).traps = s.traps := rfl

@[simp] theorem State.dropTop_gr : (s.dropTop).gr = s.gr := rfl
@[simp] theorem State.dropTop_pr : (s.dropTop).pr = s.pr := rfl
@[simp] theorem State.dropTop_sp : (s.dropTop).sp = s.sp + 1 := rfl
@[simp] theorem State.dropTop_fr : (s.dropTop).fr = s.fr := rfl
@[simp] theorem State.dropTop_mem : (s.dropTop).mem = s.mem := rfl
@[simp] theorem State.dropTop_traps : (s.dropTop).traps = s.traps := rfl

@[simp] theorem State.enter_gr (t : Word) : (s.enter t).gr = s.gr := rfl
@[simp] theorem State.enter_pr (t : Word) : (s.enter t).pr = t := rfl
@[simp] theorem State.enter_sp (t : Word) : (s.enter t).sp = s.sp - 1 := rfl
@[simp] theorem State.enter_fr (t : Word) : (s.enter t).fr = s.fr := rfl
@[simp] theorem State.enter_mem (t : Word) : (s.enter t).mem = Memory.write s.mem (s.sp - 1) s.pr := rfl
@[simp] theorem State.enter_traps (t : Word) : (s.enter t).traps = s.traps := rfl

@[simp] theorem State.leave_gr : (s.leave).gr = s.gr := rfl
@[simp] theorem State.leave_pr : (s.leave).pr = s.load s.sp := rfl
@[simp] theorem State.leave_sp : (s.leave).sp = s.sp + 1 := rfl
@[simp] theorem State.leave_fr : (s.leave).fr = s.fr := rfl
@[simp] theorem State.leave_mem : (s.leave).mem = s.mem := rfl
@[simp] theorem State.leave_traps : (s.leave).traps = s.traps := rfl

/-! Reading registers and memory back after an update. -/

/-- A field below 8 reads back what was written to the register it names. -/
theorem State.reg_setReg_same (f : RegField) (v : Word) (h : namesRegister f) :
    (s.setReg f v).reg f = v := by
  simp [State.reg, show f.toNat < 8 from h]

/-- Writing one register leaves every other as it was. -/
theorem State.reg_setReg_ne (f g : RegField) (v : Word) (h : g ≠ f) :
    (s.setReg f v).reg g = s.reg g := by
  have hne : f.toNat ≠ g.toNat := fun e => h (BitVec.eq_of_toNat_eq e.symm)
  simp [State.reg, hne]

@[simp] theorem State.load_setReg (f : RegField) (v : Word) (c : Word) : (s.setReg f v).load c = s.load c := rfl
@[simp] theorem State.reg_setFlags (f : Flags) (g : RegField) : (s.setFlags f).reg g = s.reg g := rfl
@[simp] theorem State.load_setFlags (f : Flags) (c : Word) : (s.setFlags f).load c = s.load c := rfl
@[simp] theorem State.load_writeResult (f : RegField) (res : Word × Flags) (c : Word) : (s.writeResult f res).load c = s.load c := rfl
@[simp] theorem State.reg_advance (n : Nat) (g : RegField) : (s.advance n).reg g = s.reg g := rfl
@[simp] theorem State.load_advance (n : Nat) (c : Word) : (s.advance n).load c = s.load c := rfl
@[simp] theorem State.reg_jumpTo (t : Word) (g : RegField) : (s.jumpTo t).reg g = s.reg g := rfl
@[simp] theorem State.load_jumpTo (t : Word) (c : Word) : (s.jumpTo t).load c = s.load c := rfl
@[simp] theorem State.reg_store (a v : Word) (g : RegField) : (s.store a v).reg g = s.reg g := rfl
@[simp] theorem State.reg_setSp (v : Word) (g : RegField) : (s.setSp v).reg g = s.reg g := rfl
@[simp] theorem State.load_setSp (v : Word) (c : Word) : (s.setSp v).load c = s.load c := rfl
@[simp] theorem State.reg_push (v : Word) (g : RegField) : (s.push v).reg g = s.reg g := rfl
@[simp] theorem State.reg_dropTop (g : RegField) : (s.dropTop).reg g = s.reg g := rfl
@[simp] theorem State.load_dropTop (c : Word) : (s.dropTop).load c = s.load c := rfl
@[simp] theorem State.reg_enter (t : Word) (g : RegField) : (s.enter t).reg g = s.reg g := rfl
@[simp] theorem State.reg_leave (g : RegField) : (s.leave).reg g = s.reg g := rfl
@[simp] theorem State.load_leave (c : Word) : (s.leave).load c = s.load c := rfl

@[simp] theorem State.reg_writeResult (f : RegField) (res : Word × Flags) (g : RegField) :
    (s.writeResult f res).reg g = (s.setReg f res.1).reg g := rfl
@[simp] theorem State.load_push (v c : Word) : (s.push v).load c = (s.store (s.sp - 1) v).load c := rfl
@[simp] theorem State.load_enter (t c : Word) :
    (s.enter t).load c = (s.store (s.sp - 1) s.pr).load c := rfl

end Sys2Proof.Machine
end

