-- ==== Sys2Proof/Laws/Memory.lean ====
section
/-! SUPPORT. The sparse tables behind memory and the trap table: read after write, and that every
operation keeps the canonical form (spec R51, R191, R240; log 1, log 7). -/

namespace Sys2Proof.Machine

variable (m : Cells) (k j : Nat) (v : Word)

@[simp] theorem Cells.lookup_remove_same : Cells.lookup (Cells.remove m k) k = none := by
  induction m with
  | nil => rfl
  | cons c m ih =>
    by_cases h : c.1 = k <;> simp_all [Cells.remove, Cells.lookup]

theorem Cells.lookup_remove_ne (h : j ≠ k) :
    Cells.lookup (Cells.remove m k) j = Cells.lookup m j := by
  induction m with
  | nil => rfl
  | cons c m ih =>
    by_cases hk : c.1 = k
    · have hj : c.1 ≠ j := fun e => h (e.symm.trans hk)
      simp_all [Cells.remove, Cells.lookup]
    · simp_all [Cells.remove, Cells.lookup]

theorem Cells.lookup_place_same (h : Cells.lookup m k = none) :
    Cells.lookup (Cells.place k v m) k = some v := by
  induction m with
  | nil => simp [Cells.place, Cells.lookup]
  | cons c m ih =>
    by_cases hc : c.1 = k
    · simp [Cells.lookup, hc] at h
    · have hrest : Cells.lookup m k = none := by simpa [Cells.lookup, hc] using h
      by_cases hlt : k < c.1
      · simp [Cells.place, Cells.lookup, if_pos hlt]
      · simp [Cells.place, Cells.lookup, if_neg hlt, hc, ih hrest]

theorem Cells.lookup_place_ne (h : j ≠ k) :
    Cells.lookup (Cells.place k v m) j = Cells.lookup m j := by
  induction m with
  | nil => simp [Cells.place, Cells.lookup, h.symm]
  | cons c m ih =>
    by_cases hlt : k < c.1
    · simp [Cells.place, Cells.lookup, if_pos hlt, h.symm]
    · simp [Cells.place, Cells.lookup, if_neg hlt, ih]

@[simp] theorem Cells.lookup_put_same : Cells.lookup (Cells.put m k v) k = some v :=
  Cells.lookup_place_same _ k v (Cells.lookup_remove_same m k)

theorem Cells.lookup_put_ne (h : j ≠ k) : Cells.lookup (Cells.put m k v) j = Cells.lookup m j :=
  (Cells.lookup_place_ne _ k j v h).trans (Cells.lookup_remove_ne m k j h)

theorem Cells.mem_remove (c : Nat × Word) : c ∈ Cells.remove m k ↔ c ∈ m ∧ c.1 ≠ k := by
  simp [Cells.remove]

theorem Cells.mem_place (c : Nat × Word) : c ∈ Cells.place k v m ↔ c = (k, v) ∨ c ∈ m := by
  induction m with
  | nil => simp [Cells.place]
  | cons d m ih =>
    by_cases hlt : k < d.1 <;> simp [Cells.place, hlt, ih, or_left_comm]

theorem Cells.remove_sorted (h : Cells.sorted m) : Cells.sorted (Cells.remove m k) := h.filter _

theorem Cells.place_sorted (h : Cells.sorted m) (hk : ∀ c ∈ m, c.1 ≠ k) :
    Cells.sorted (Cells.place k v m) := by
  induction m with
  | nil => simp [Cells.place]
  | cons d m ih =>
    obtain ⟨hd, hm⟩ := List.pairwise_cons.1 h
    by_cases hlt : k < d.1
    · simp only [Cells.place, hlt, if_true]
      refine List.pairwise_cons.2 ⟨fun c hc => ?_, h⟩
      rcases List.mem_cons.1 hc with rfl | hc
      · exact hlt
      · exact hlt.trans (hd c hc)
    · simp only [Cells.place, hlt, if_false]
      refine List.pairwise_cons.2 ⟨fun c hc => ?_, ih hm fun c hc => hk c (.tail _ hc)⟩
      rcases (Cells.mem_place m k v c).1 hc with rfl | hc
      · have := hk d (.head _)
        show d.1 < k
        omega
      · exact hd c hc

theorem Cells.put_sorted (h : Cells.sorted m) : Cells.sorted (Cells.put m k v) :=
  Cells.place_sorted _ k v (Cells.remove_sorted m k h) fun c hc => ((Cells.mem_remove m k c).1 hc).2

theorem Cells.mem_put (c : Nat × Word) (h : c ∈ Cells.put m k v) : c = (k, v) ∨ c ∈ m :=
  ((Cells.mem_place _ k v c).1 h).imp_right fun h => ((Cells.mem_remove m k c).1 h).1

/-- Two addresses that differ are two different keys. -/
theorem toNat_ne {a b : Word} (h : a ≠ b) : a.toNat ≠ b.toNat := fun e => h (BitVec.eq_of_toNat_eq e)

/-- A read returns what was last written to the address (R51). -/
@[simp] theorem Memory.read_write_same (m : Memory) (a v : Word) :
    Memory.read (Memory.write m a v) a = v := by
  by_cases h : v = Config.unwrittenWord <;> simp [Memory.read, Memory.write, h]

/-- A write changes exactly one word (R51). -/
theorem Memory.read_write_ne (m : Memory) (a b v : Word) (h : b ≠ a) :
    Memory.read (Memory.write m a v) b = Memory.read m b := by
  have hk := toNat_ne h
  by_cases hv : v = Config.unwrittenWord <;>
    simp [Memory.read, Memory.write, hv, Cells.lookup_remove_ne, Cells.lookup_put_ne, hk]

/-- A write keeps the canonical form of memory. -/
theorem Memory.write_wf (m : Memory) (a v : Word) (h : Memory.wf m) :
    Memory.wf (Memory.write m a v) := by
  by_cases hv : v = Config.unwrittenWord
  · simp only [Memory.write, hv, if_true]
    exact ⟨Cells.remove_sorted m _ h.1, fun c hc => h.2 c ((Cells.mem_remove m _ c).1 hc).1⟩
  · simp only [Memory.write, hv, if_false]
    refine ⟨Cells.put_sorted m _ v h.1, fun c hc => ?_⟩
    rcases Cells.mem_put m _ v c hc with rfl | hc
    · exact ⟨a.isLt, hv⟩
    · exact h.2 c hc

/-- The memory after reset is in canonical form. -/
theorem Memory.reset_wf : Memory.wf State.reset.mem := by decide

/-- The entry just configured is the one found (R240). -/
@[simp] theorem TrapTable.target_set_same (t : TrapTable) (n a : Word) :
    TrapTable.target (TrapTable.set t n a) n = some a := by
  simp [TrapTable.target, TrapTable.set]

/-- Configuring one trap number leaves the others as they were (R240). -/
theorem TrapTable.target_set_ne (t : TrapTable) (n k a : Word) (h : k ≠ n) :
    TrapTable.target (TrapTable.set t n a) k = TrapTable.target t k :=
  Cells.lookup_put_ne t _ _ a (toNat_ne h)

/-- Configuring an entry keeps the canonical form of the trap table. -/
theorem TrapTable.set_wf (t : TrapTable) (n a : Word) (h : TrapTable.wf t) :
    TrapTable.wf (TrapTable.set t n a) := by
  refine ⟨Cells.put_sorted t _ a h.1, fun c hc => ?_⟩
  rcases Cells.mem_put t _ a c hc with rfl | hc
  · exact n.isLt
  · exact h.2 c hc

/-- A stored word is read back at its address. -/
@[simp] theorem State.load_store_same (s : State) (a v : Word) : (s.store a v).load a = v :=
  Memory.read_write_same s.mem a v

/-- A store leaves every other address as it was. -/
theorem State.load_store_ne (s : State) (a b v : Word) (h : b ≠ a) :
    (s.store a v).load b = s.load b :=
  Memory.read_write_ne s.mem a b v h

end Sys2Proof.Machine
end

