-- ==== Sys2Proof/Laws/Ops.lean ====
section
/-! SUPPORT. What each shared operation can do, said once: the check of the register fields, operand
resolution, the stack, entry to a service and return from it, and the fetch (spec R33, R75 to R79,
R82, R86, R190, R207, R208). -/

namespace Sys2Proof

/-- No reserved field among those given: each names a register. -/
theorem firstReserved_eq_none (fs : List RegField) :
    firstReserved fs = none ↔ ∀ f ∈ fs, namesRegister f := by
  simp [firstReserved]

/-- A field reported as reserved is one of those given and names no register. -/
theorem firstReserved_eq_some (fs : List RegField) (f : RegField) (h : firstReserved fs = some f) :
    f ∈ fs ∧ ¬ namesRegister f :=
  ⟨List.mem_of_find?_eq_some h, by simpa using List.find?_some h⟩

namespace Machine

/-- With every field naming a register, the check changes nothing. -/
theorem checkFields_ok (fs : List RegField) (out : Outcome) (h : ∀ f ∈ fs, namesRegister f) :
    checkFields fs out = out := by
  simp [checkFields, (firstReserved_eq_none fs).2 h]

/-- With a reserved field, the check refuses by that field. -/
theorem checkFields_reserved (fs : List RegField) (out : Outcome) (f : RegField)
    (h : firstReserved fs = some f) : checkFields fs out = .refused (.reservedRegisterField f) := by
  simp [checkFields, h]

/-- A checked outcome that is a next state: every field names a register, and the outcome is it. -/
theorem checkFields_eq_next (fs : List RegField) (out : Outcome) (t : State) :
    checkFields fs out = .next t ↔ (∀ f ∈ fs, namesRegister f) ∧ out = .next t := by
  rw [← firstReserved_eq_none]
  unfold checkFields
  cases firstReserved fs <;> simp

/-- A checked outcome that is a fault: every field names a register, and the outcome is it. -/
theorem checkFields_eq_fault (fs : List RegField) (out : Outcome) (e : Fault) :
    checkFields fs out = .fault e ↔ (∀ f ∈ fs, namesRegister f) ∧ out = .fault e := by
  rw [← firstReserved_eq_none]
  unfold checkFields
  cases firstReserved fs <;> simp

/-- Without an index the effective address is the second word. -/
@[simp] theorem State.effAddr_zero (s : State) (adr : Word) : s.effAddr adr 0 = adr := rfl

/-- With an index the register is added modulo 65536. -/
theorem State.effAddr_index (s : State) (adr : Word) (x : RegField) (h : x ≠ 0) :
    s.effAddr adr x = adr + s.reg x :=
  if_neg h

/-- A pushed word is the new top of the stack. -/
@[simp] theorem State.top_push (s : State) (v : Word) : (s.push v).top = v := by
  simp [State.top]

/-- A push followed by a pop restores SP. -/
@[simp] theorem State.sp_dropTop_push (s : State) (v : Word) : (s.push v).dropTop.sp = s.sp := by
  simp

/-- A trap that is taken enters the configured service; one that is not misses. -/
theorem State.takeTrap_eq_next (s t : State) (n : Word) :
    s.takeTrap n = .next t ↔ ∃ a, TrapTable.target s.traps n = some a ∧ t = s.enter a := by
  unfold State.takeTrap raiseTrapMiss
  cases TrapTable.target s.traps n <;> simp [eq_comm]

/-- The only fault of a supervisor call is TrapMiss for its own number. -/
theorem State.takeTrap_eq_fault (s : State) (n : Word) (e : Fault) :
    s.takeTrap n = .fault e ↔ TrapTable.target s.traps n = none ∧ e = .trapMiss n := by
  unfold State.takeTrap raiseTrapMiss
  cases TrapTable.target s.traps n <;> simp [eq_comm]

/-- The return after an entry goes back to the PR of the entry. -/
@[simp] theorem State.leave_enter_pr (s : State) (t : Word) : (s.enter t).leave.pr = s.pr := by
  simp

/-- A fetched instruction uses no reserved field. -/
theorem fetchInstr_wellFormed (s : State) (i : Instr) (h : fetchInstr s = .ok i) :
    i.WellFormed := by
  unfold fetchInstr decodeWords at h
  split at h
  · cases h
  · split at h
    · cases h
    · cases h; assumption

end Machine

end Sys2Proof
end

