-- ==== Sys2Proof/Laws/PerInstr.lean ====
section
/-! SUPPORT. Facts about every instruction as syntax, one lemma per constructor: its encoding has as
many words as its format (spec R72, R74, R91). -/

namespace Sys2Proof.Laws.EncodingLength

/-- The encoding of `i` has the number of words of its format. -/
def Statement (i : Instr) : Prop := (encode i).length = i.format.words

theorem nop : Statement (.nop) := rfl
theorem ld (r : RegField) (adr : Word) (x : RegField) : Statement (.ld r adr x) := rfl
theorem st (r : RegField) (adr : Word) (x : RegField) : Statement (.st r adr x) := rfl
theorem lad (r : RegField) (adr : Word) (x : RegField) : Statement (.lad r adr x) := rfl
theorem ldRR (r1 r2 : RegField) : Statement (.ldRR r1 r2) := rfl
theorem adda (r : RegField) (adr : Word) (x : RegField) : Statement (.adda r adr x) := rfl
theorem suba (r : RegField) (adr : Word) (x : RegField) : Statement (.suba r adr x) := rfl
theorem addl (r : RegField) (adr : Word) (x : RegField) : Statement (.addl r adr x) := rfl
theorem subl (r : RegField) (adr : Word) (x : RegField) : Statement (.subl r adr x) := rfl
theorem addaRR (r1 r2 : RegField) : Statement (.addaRR r1 r2) := rfl
theorem subaRR (r1 r2 : RegField) : Statement (.subaRR r1 r2) := rfl
theorem addlRR (r1 r2 : RegField) : Statement (.addlRR r1 r2) := rfl
theorem sublRR (r1 r2 : RegField) : Statement (.sublRR r1 r2) := rfl
theorem and (r : RegField) (adr : Word) (x : RegField) : Statement (.and r adr x) := rfl
theorem or (r : RegField) (adr : Word) (x : RegField) : Statement (.or r adr x) := rfl
theorem xor (r : RegField) (adr : Word) (x : RegField) : Statement (.xor r adr x) := rfl
theorem andRR (r1 r2 : RegField) : Statement (.andRR r1 r2) := rfl
theorem orRR (r1 r2 : RegField) : Statement (.orRR r1 r2) := rfl
theorem xorRR (r1 r2 : RegField) : Statement (.xorRR r1 r2) := rfl
theorem cpa (r : RegField) (adr : Word) (x : RegField) : Statement (.cpa r adr x) := rfl
theorem cpl (r : RegField) (adr : Word) (x : RegField) : Statement (.cpl r adr x) := rfl
theorem cpaRR (r1 r2 : RegField) : Statement (.cpaRR r1 r2) := rfl
theorem cplRR (r1 r2 : RegField) : Statement (.cplRR r1 r2) := rfl
theorem sla (r : RegField) (adr : Word) (x : RegField) : Statement (.sla r adr x) := rfl
theorem sra (r : RegField) (adr : Word) (x : RegField) : Statement (.sra r adr x) := rfl
theorem sll (r : RegField) (adr : Word) (x : RegField) : Statement (.sll r adr x) := rfl
theorem srl (r : RegField) (adr : Word) (x : RegField) : Statement (.srl r adr x) := rfl
theorem jmi (adr : Word) (x : RegField) : Statement (.jmi adr x) := rfl
theorem jnz (adr : Word) (x : RegField) : Statement (.jnz adr x) := rfl
theorem jze (adr : Word) (x : RegField) : Statement (.jze adr x) := rfl
theorem jump (adr : Word) (x : RegField) : Statement (.jump adr x) := rfl
theorem jpl (adr : Word) (x : RegField) : Statement (.jpl adr x) := rfl
theorem jov (adr : Word) (x : RegField) : Statement (.jov adr x) := rfl
theorem push (adr : Word) (x : RegField) : Statement (.push adr x) := rfl
theorem pop (r : RegField) : Statement (.pop r) := rfl
theorem call (adr : Word) (x : RegField) : Statement (.call adr x) := rfl
theorem ret : Statement (.ret) := rfl
theorem svc (adr : Word) (x : RegField) : Statement (.svc adr x) := rfl

end Sys2Proof.Laws.EncodingLength
end

