-- ==== Sys2Proof/Tests/Slice0.lean ====
section
/-! SUPPORT. Tests of the model against the spec's own examples and vectors (95_test_vectors.md and the
examples of the instruction rules), and one witness for each obligation with hypotheses. -/

namespace Sys2Proof.Tests

open Sys2Proof Sys2Proof.Machine Sys2Proof.Safety

/-! Well-formedness: one ill-formed term for each check, and the boundary value 7 (R82). -/

theorem test_wf_refuses_r : ¬ (Instr.ld 8 0 0).WellFormed := by decide
theorem test_wf_refuses_x : ¬ (Instr.lad 1 0 9).WellFormed := by decide
theorem test_wf_refuses_r1 : ¬ (Instr.ldRR 8 0).WellFormed := by decide
theorem test_wf_refuses_r2 : ¬ (Instr.addaRR 0 15).WellFormed := by decide
theorem test_wf_refuses_pop : ¬ (Instr.pop 8).WellFormed := by decide
theorem test_wf_refuses_index_of_jump : ¬ (Instr.jump 0 8).WellFormed := by decide
theorem test_wf_accepts_seven : (Instr.ld 7 0 7).WellFormed ∧ (Instr.ldRR 7 7).WellFormed := by decide

/-! Decoding: for each constructor a word written out from the table of R80 and the bit layout of R71,
and the encoder on the same instruction (R91). -/

/-- The words decode to the instruction with nothing left, and the instruction encodes to them. -/
abbrev Agrees (ws : List Word) (i : Instr) : Prop := decode ws = .ok (i, []) ∧ encode i = ws

theorem test_decode_load_store :
  Agrees [0b00000000_0000_0000] .nop ∧
  Agrees [0b00010000_0111_0100, 0x1232] (.ld 7 0x1232 4) ∧
  Agrees [0b00010001_0011_0010, 0x1233] (.st 3 0x1233 2) ∧
  Agrees [0b00010010_0110_0111, 0x1234] (.lad 6 0x1234 7) ∧
  Agrees [0b00010100_0010_0101] (.ldRR 2 5) := by decide

theorem test_decode_arithmetic :
  Agrees [0b00100000_0101_0011, 0x1236] (.adda 5 0x1236 3) ∧
  Agrees [0b00100001_0001_0001, 0x1237] (.suba 1 0x1237 1) ∧
  Agrees [0b00100010_0100_0110, 0x1238] (.addl 4 0x1238 6) ∧
  Agrees [0b00100011_0111_0100, 0x1239] (.subl 7 0x1239 4) ∧
  Agrees [0b00100100_0011_0010] (.addaRR 3 2) ∧
  Agrees [0b00100101_0110_0111] (.subaRR 6 7) ∧
  Agrees [0b00100110_0010_0101] (.addlRR 2 5) ∧
  Agrees [0b00100111_0101_0011] (.sublRR 5 3) := by decide

theorem test_decode_logic :
  Agrees [0b00110000_0001_0001, 0x123E] (.and 1 0x123E 1) ∧
  Agrees [0b00110001_0100_0110, 0x123F] (.or 4 0x123F 6) ∧
  Agrees [0b00110010_0111_0100, 0x1240] (.xor 7 0x1240 4) ∧
  Agrees [0b00110100_0011_0010] (.andRR 3 2) ∧
  Agrees [0b00110101_0110_0111] (.orRR 6 7) ∧
  Agrees [0b00110110_0010_0101] (.xorRR 2 5) := by decide

theorem test_decode_compare :
  Agrees [0b01000000_0101_0011, 0x1244] (.cpa 5 0x1244 3) ∧
  Agrees [0b01000001_0001_0001, 0x1245] (.cpl 1 0x1245 1) ∧
  Agrees [0b01000100_0100_0110] (.cpaRR 4 6) ∧
  Agrees [0b01000101_0111_0100] (.cplRR 7 4) := by decide

theorem test_decode_shift :
  Agrees [0b01010000_0011_0010, 0x1248] (.sla 3 0x1248 2) ∧
  Agrees [0b01010001_0110_0111, 0x1249] (.sra 6 0x1249 7) ∧
  Agrees [0b01010010_0010_0101, 0x124A] (.sll 2 0x124A 5) ∧
  Agrees [0b01010011_0101_0011, 0x124B] (.srl 5 0x124B 3) := by decide

theorem test_decode_jump :
  Agrees [0b01100001_0000_0001, 0x124C] (.jmi 0x124C 1) ∧
  Agrees [0b01100010_0000_0110, 0x124D] (.jnz 0x124D 6) ∧
  Agrees [0b01100011_0000_0100, 0x124E] (.jze 0x124E 4) ∧
  Agrees [0b01100100_0000_0010, 0x124F] (.jump 0x124F 2) ∧
  Agrees [0b01100101_0000_0111, 0x1250] (.jpl 0x1250 7) ∧
  Agrees [0b01100110_0000_0101, 0x1251] (.jov 0x1251 5) := by decide

theorem test_decode_stack :
  Agrees [0b01110000_0000_0011, 0x1252] (.push 0x1252 3) ∧
  Agrees [0b01110001_0001_0000] (.pop 1) ∧
  Agrees [0b10000000_0000_0110, 0x1254] (.call 0x1254 6) ∧
  Agrees [0b10000001_0000_0000] .ret := by decide

theorem test_decode_svc :
  Agrees [0b11110000_0000_0010, 0x1256] (.svc 0x1256 2) := by decide

/-- Ignored bits are not looked at (R73, V1 and V7): NOP 00AB, POP 711F, RET 81FF, JUMP 64F3. -/
theorem test_decode_ignored :
  decodeWords 0x00AB 0 = .ok .nop ∧ decodeWords 0x711F 0 = .ok (.pop 1) ∧
  decodeWords 0x81FF 0 = .ok .ret ∧ decodeWords 0x64F3 0x100 = .ok (.jump 0x100 3) := by decide

/-- Illegal opcodes next to legal ones, and reserved fields (V8, R84). -/
theorem test_decode_rejects :
  decodeWords 0x9900 0 = .error (.illegalInstruction 0x9900) ∧
  decodeWords 0x1300 0 = .error (.illegalInstruction 0x1300) ∧
  decodeWords 0x0100 0 = .error (.illegalInstruction 0x0100) ∧
  decodeWords 0x1480 0 = .error (.reservedField 8) ∧ decodeWords 0x1470 0 = .ok (.ldRR 7 0) ∧
  decodeWords 0x1209 0 = .error (.reservedField 9) ∧ decodeWords 0x1207 0 = .ok (.lad 0 0 7) := by
  decide

/-- A two-word instruction without its second word is truncated (R70). -/
theorem test_decode_truncated :
  decode [0x1000] = .error .truncated ∧ decode [] = .error .truncated ∧
  decode [0x0000, 0x1234] = .ok (.nop, [0x1234]) := by decide

/-- The bits of a row are numbered from the first word; the second word is bits 31..16. -/
theorem test_decode_table_word :
  decodeTableWord 16 0x1012 = some (.ld 1 0 2) ∧
  decodeTableWord 32 0x02001013 = some (.ld 1 0x0200 3) ∧ decodeTableWord 16 0x9900 = none := by
  decide

/-! Single steps. `at0` is the state of the test: PR, SP, three registers and the words at PR. -/

/-- A state with GR1, GR2, GR3, PR and SP given, flags 1 0 1, and a memory of the cells given. -/
def start (g1 g2 g3 pr sp : Word) (mem : Memory) : State :=
  { State.reset with
    gr := #v[0xBEEF, g1, g2, g3, 0x0010, 0x8000, 0, 0x0300], pr := pr, sp := sp,
    fr := { of := true, sf := false, zf := true }, mem := mem }

/-- The step from `s`, observed by `f` when it completes. -/
def after {α : Type} (s : State) (f : State → α) : Option α :=
  match step s with
  | .next t => some (f t)
  | .fault _ => none
  | .refused _ => none

/-- Register 1 and the flags OF, SF, ZF. -/
def result (s : State) : Word × Bool × Bool × Bool := (s.reg 1, s.fr.of, s.fr.sf, s.fr.zf)

/-- A one-word instruction on `a` in GR1 and `b` in GR2: the result and flags. -/
def onRegs (w a b : Word) : Option (Word × Bool × Bool × Bool) :=
  after (start a b 0 0x0100 0x9000 [(0x0100, w)]) result

/-- A two-word instruction with `adr` = 0x0200, `a` in GR1 and `b` at 0x0200: the result and flags. -/
def onMem (w a b : Word) : Option (Word × Bool × Bool × Bool) :=
  after (start a 0 0 0x0100 0x9000 [(0x0100, w), (0x0101, 0x0200), (0x0200, b)]) result

/-- A shift of `v` in GR1 by `n`: the result and flags. -/
def onCount (w v n : Word) : Option (Word × Bool × Bool × Bool) :=
  after (start v 0 0 0x0100 0x9000 [(0x0100, w), (0x0101, n)]) result

/-- A jump to 0x0040 at 0x0010 with the flags given: PR after it. -/
def jumps (w : Word) (o s z : Bool) : Option Word :=
  after ((start 0 0 0 0x0010 0 [(0x0010, w), (0x0011, 0x0040)]).setFlags ⟨o, s, z⟩) State.pr

/-- NOP at 0xFFFF wraps to 0 (V1). -/
theorem test_nop_wraps : after (start 0 0 0 0xFFFF 0 []) State.pr = some 0 := by decide

/-- `LD GR1,0x0200,GR3` with GR3 = 2 keeps the flags (V1, R101). -/
theorem test_ld_indexed :
  after (start 0 0 2 0x0100 0 [(0x0100, 0x1013), (0x0101, 0x0200), (0x0202, 0x8001)]) result =
    some (0x8001, true, false, true) := by decide

/-- `LD GR1,0xFFFF,GR1` with GR1 = 3: the address wraps, the old register indexes (V1). -/
theorem test_ld_wraps_same_register :
  after (start 3 0 0 0x0100 0 [(0x0002, 0x00AA), (0x0100, 0x1011), (0x0101, 0xFFFF)]) State.gr =
    some #v[0xBEEF, 0x00AA, 0, 0, 0x0010, 0x8000, 0, 0x0300] := by decide

/-- `LAD GR2,1,GR2` adds one and touches no flag (R102). -/
theorem test_lad_increments :
  after (start 0 3 0 0x0008 0 [(0x0008, 0x1222), (0x0009, 0x0001)])
    (fun t => (t.reg 2, t.fr, t.pr)) = some (4, ⟨true, false, true⟩, 0x000A) := by decide

/-- `LAD GR1,0xBEEF` across the top of memory (V1). -/
theorem test_lad_straddles_top :
  after (start 0 0 0 0xFFFF 0 [(0, 0xBEEF), (0xFFFF, 0x1210)]) (fun t => (t.reg 1, t.pr)) =
    some (0xBEEF, 1) := by decide

/-- `LD GR5,GR5` with 0x8000 and `LD GR0,GR2` with 0 (V1, R103). -/
theorem test_ldRR_flags :
  after (start 0 0 0 0x0100 0 [(0x0100, 0x1455)]) (fun t => (t.reg 5, t.fr)) =
    some (0x8000, ⟨false, true, false⟩) ∧
  after (start 0 0 0 0x0100 0 [(0x0100, 0x1402)]) (fun t => (t.reg 0, t.fr)) =
    some (0, ⟨false, false, true⟩) := by decide

/-- `ST GR0,0x0300,GR4` (V1, R104). -/
theorem test_st_stores :
  after (start 0 0 0 0x0100 0 [(0x0100, 0x1104), (0x0101, 0x0300)])
    (fun t => (t.load 0x0310, t.load 0x0300, t.fr, t.pr)) =
    some (0xBEEF, 0, ⟨true, false, true⟩, 0x0102) := by decide

/-- ADDA on two rows of V2. -/
theorem test_adda_memory :
  onMem 0x2010 0x7FFF 0x0001 = some (0x8000, true, true, false) ∧
  onMem 0x2010 0x8000 0x8000 = some (0x0000, true, false, true) := by decide

/-- ADDA on two rows of V2. -/
theorem test_adda_registers :
  onRegs 0x2412 0xFFFF 0x0001 = some (0x0000, false, false, true) ∧
  onRegs 0x2412 0x8000 0xFFFF = some (0x7FFF, true, false, false) := by decide

/-- SUBA on two rows of V2. -/
theorem test_suba_memory :
  onMem 0x2110 0x8000 0x0001 = some (0x7FFF, true, false, false) ∧
  onMem 0x2110 0x0000 0x8000 = some (0x8000, true, true, false) := by decide

/-- SUBA on two rows of V2. -/
theorem test_suba_registers :
  onRegs 0x2512 0x8000 0x8000 = some (0x0000, false, false, true) ∧
  onRegs 0x2512 0x0001 0x0002 = some (0xFFFF, false, true, false) := by decide

/-- ADDL on two rows of V2. -/
theorem test_addl_memory :
  onMem 0x2210 0x0001 0xFFFF = some (0x0000, true, false, true) ∧
  onMem 0x2210 0x7FFF 0x0001 = some (0x8000, false, true, false) := by decide

/-- ADDL on two rows of V2. -/
theorem test_addl_registers :
  onRegs 0x2612 0xFFFF 0xFFFF = some (0xFFFE, true, true, false) ∧
  onRegs 0x2612 0x1234 0x1234 = some (0x2468, false, false, false) := by decide

/-- SUBL on two rows of V2. -/
theorem test_subl_memory :
  onMem 0x2310 0x0001 0x0002 = some (0xFFFF, true, true, false) ∧
  onMem 0x2310 0x1234 0x1234 = some (0x0000, false, false, true) := by decide

/-- SUBL on two rows of V2. -/
theorem test_subl_registers :
  onRegs 0x2712 0x8000 0x0001 = some (0x7FFF, false, false, false) ∧
  onRegs 0x2712 0x0001 0xFFFF = some (0x0002, true, false, false) := by decide

/-- AND on two rows of V3. -/
theorem test_and_memory :
  onMem 0x3010 0xCAB7 0x00F0 = some (0x00B0, false, false, false) ∧
  onMem 0x3010 0x7FFF 0x8000 = some (0x0000, false, false, true) := by decide

/-- AND on two rows of V3. -/
theorem test_and_registers :
  onRegs 0x3412 0x7FFF 0x8000 = some (0x0000, false, false, true) ∧
  onRegs 0x3412 0x8000 0xFFFF = some (0x8000, false, true, false) := by decide

/-- OR on two rows of V3. -/
theorem test_or_memory :
  onMem 0x3110 0xCAB7 0x00F0 = some (0xCAF7, false, true, false) ∧
  onMem 0x3110 0x0000 0x0000 = some (0x0000, false, false, true) := by decide

/-- OR on two rows of V3. -/
theorem test_or_registers :
  onRegs 0x3512 0x0000 0x0000 = some (0x0000, false, false, true) ∧
  onRegs 0x3512 0x0001 0x0002 = some (0x0003, false, false, false) := by decide

/-- XOR on two rows of V3. -/
theorem test_xor_memory :
  onMem 0x3210 0xCAB7 0x00F0 = some (0xCA47, false, true, false) ∧
  onMem 0x3210 0x8000 0x8000 = some (0x0000, false, false, true) := by decide

/-- XOR on two rows of V3. -/
theorem test_xor_registers :
  onRegs 0x3612 0x8000 0x8000 = some (0x0000, false, false, true) ∧
  onRegs 0x3612 0x8000 0xFFFF = some (0x7FFF, false, false, false) := by decide

/-- CPA on two rows of V4. -/
theorem test_cpa_memory :
  onMem 0x4010 0x8000 0x0001 = some (0x8000, false, true, false) ∧
  onMem 0x4010 0x0001 0xFFFF = some (0x0001, false, false, false) := by decide

/-- CPA on two rows of V4. -/
theorem test_cpa_registers :
  onRegs 0x4412 0x7FFF 0x8000 = some (0x7FFF, false, false, false) ∧
  onRegs 0x4412 0x0000 0x0000 = some (0x0000, false, false, true) := by decide

/-- CPL on two rows of V4. -/
theorem test_cpl_memory :
  onMem 0x4110 0x8000 0x0001 = some (0x8000, false, false, false) ∧
  onMem 0x4110 0x0001 0xFFFF = some (0x0001, false, true, false) := by decide

/-- CPL on two rows of V4. -/
theorem test_cpl_registers :
  onRegs 0x4512 0x7FFF 0x8000 = some (0x7FFF, false, true, false) ∧
  onRegs 0x4512 0x8000 0x8000 = some (0x8000, false, false, true) := by decide

/-- SLA on four rows of V5, counts 0, 16 and 17 among them where they tell. -/
theorem test_sla_rows :
  onCount 0x5010 0x8000 0x0001 = some (0x0000, false, false, true) ∧
  onCount 0x5010 0x4000 0x0001 = some (0x8000, true, true, false) ∧
  onCount 0x5010 0x0001 0x000F = some (0x8000, true, true, false) ∧
  onCount 0x5010 0xFFFF 0x0010 = some (0x0000, false, false, true) := by decide

/-- SRA on four rows of V5, counts 0, 16 and 17 among them where they tell. -/
theorem test_sra_rows :
  onCount 0x5110 0x8000 0x0001 = some (0x4000, false, false, false) ∧
  onCount 0x5110 0x8000 0x0000 = some (0x8000, false, true, false) ∧
  onCount 0x5110 0xFFFF 0x0010 = some (0x0000, true, false, true) ∧
  onCount 0x5110 0xFFFF 0x0011 = some (0x0000, false, false, true) := by decide

/-- SLL on four rows of V5, counts 0, 16 and 17 among them where they tell. -/
theorem test_sll_rows :
  onCount 0x5210 0x4000 0x0002 = some (0x0000, false, false, true) ∧
  onCount 0x5210 0x8000 0x0000 = some (0x8000, true, true, false) ∧
  onCount 0x5210 0xC001 0x0002 = some (0x0004, true, false, false) ∧
  onCount 0x5210 0xFFFF 0xFFFF = some (0x0000, true, false, true) := by decide

/-- SRL on four rows of V5, counts 0, 16 and 17 among them where they tell. -/
theorem test_srl_rows :
  onCount 0x5310 0x0001 0x0000 = some (0x0001, true, false, false) ∧
  onCount 0x5310 0x8003 0x0001 = some (0x4001, true, false, false) ∧
  onCount 0x5310 0x8000 0x0010 = some (0x0000, false, false, true) ∧
  onCount 0x5310 0xFFFF 0x0011 = some (0x0000, true, false, true) := by decide

/-- An indexed count: `5012 0001` with GR2 = 3 shifts by 4 (V5). -/
theorem test_sla_indexed_count :
  after (start 0x0123 3 0 0x0100 0 [(0x0100, 0x5012), (0x0101, 0x0001)]) (fun t => t.reg 1) =
    some 0x1230 := by decide

/-- JMI on all eight rows of V6. -/
theorem test_jmi_all_flags :
  jumps 0x6100 false false false = some 0x0012 ∧
  jumps 0x6100 false false true = some 0x0012 ∧
  jumps 0x6100 false true false = some 0x0040 ∧
  jumps 0x6100 false true true = some 0x0040 ∧
  jumps 0x6100 true false false = some 0x0012 ∧
  jumps 0x6100 true false true = some 0x0012 ∧
  jumps 0x6100 true true false = some 0x0040 ∧
  jumps 0x6100 true true true = some 0x0040 := by decide

/-- JNZ on all eight rows of V6. -/
theorem test_jnz_all_flags :
  jumps 0x6200 false false false = some 0x0040 ∧
  jumps 0x6200 false false true = some 0x0012 ∧
  jumps 0x6200 false true false = some 0x0040 ∧
  jumps 0x6200 false true true = some 0x0012 ∧
  jumps 0x6200 true false false = some 0x0040 ∧
  jumps 0x6200 true false true = some 0x0012 ∧
  jumps 0x6200 true true false = some 0x0040 ∧
  jumps 0x6200 true true true = some 0x0012 := by decide

/-- JZE on all eight rows of V6. -/
theorem test_jze_all_flags :
  jumps 0x6300 false false false = some 0x0012 ∧
  jumps 0x6300 false false true = some 0x0040 ∧
  jumps 0x6300 false true false = some 0x0012 ∧
  jumps 0x6300 false true true = some 0x0040 ∧
  jumps 0x6300 true false false = some 0x0012 ∧
  jumps 0x6300 true false true = some 0x0040 ∧
  jumps 0x6300 true true false = some 0x0012 ∧
  jumps 0x6300 true true true = some 0x0040 := by decide

/-- JUMP on all eight rows of V6. -/
theorem test_jump_all_flags :
  jumps 0x6400 false false false = some 0x0040 ∧
  jumps 0x6400 false false true = some 0x0040 ∧
  jumps 0x6400 false true false = some 0x0040 ∧
  jumps 0x6400 false true true = some 0x0040 ∧
  jumps 0x6400 true false false = some 0x0040 ∧
  jumps 0x6400 true false true = some 0x0040 ∧
  jumps 0x6400 true true false = some 0x0040 ∧
  jumps 0x6400 true true true = some 0x0040 := by decide

/-- JPL on all eight rows of V6. -/
theorem test_jpl_all_flags :
  jumps 0x6500 false false false = some 0x0040 ∧
  jumps 0x6500 false false true = some 0x0012 ∧
  jumps 0x6500 false true false = some 0x0012 ∧
  jumps 0x6500 false true true = some 0x0012 ∧
  jumps 0x6500 true false false = some 0x0040 ∧
  jumps 0x6500 true false true = some 0x0012 ∧
  jumps 0x6500 true true false = some 0x0012 ∧
  jumps 0x6500 true true true = some 0x0012 := by decide

/-- JOV on all eight rows of V6. -/
theorem test_jov_all_flags :
  jumps 0x6600 false false false = some 0x0012 ∧
  jumps 0x6600 false false true = some 0x0012 ∧
  jumps 0x6600 false true false = some 0x0012 ∧
  jumps 0x6600 false true true = some 0x0012 ∧
  jumps 0x6600 true false false = some 0x0040 ∧
  jumps 0x6600 true false true = some 0x0040 ∧
  jumps 0x6600 true true false = some 0x0040 ∧
  jumps 0x6600 true true true = some 0x0040 := by decide

/-- An indexed target that wraps: `6403 0100` with GR3 = 0xFF00 goes to 0 (V6). -/
theorem test_jump_indexed_wraps :
  after (start 0 0 0xFF00 0x0020 0 [(0x0020, 0x6403), (0x0021, 0x0100)]) State.pr = some 0 := by
  decide

/-- PUSH with SP = 0 writes at 0xFFFF (V7). -/
theorem test_push_wraps :
  after (start 0 0 0 5 0 [(5, 0x7000), (6, 0xABCD)]) (fun t => (t.sp, t.load 0xFFFF, t.pr)) =
    some (0xFFFF, 0xABCD, 7) := by decide

/-- `PUSH 0x1000,GR3` pushes the address itself (S5). -/
theorem test_push_pushes_address :
  after (start 0 0 0x0011 5 0x9000 [(5, 0x7003), (6, 0x1000)]) (fun t => (t.sp, t.load 0x8FFF)) =
    some (0x8FFF, 0x1011) := by decide

/-- POP with SP = 0xFFFF wraps SP and leaves the word and the flags (V7). -/
theorem test_pop_wraps :
  after (start 0 0 0 5 0xFFFF [(5, 0x7110), (0xFFFF, 0x4242)])
    (fun t => (t.reg 1, t.sp, t.load 0xFFFF, t.fr, t.pr)) =
    some (0x4242, 0, 0x4242, ⟨true, false, true⟩, 6) := by decide

/-- `CALL 8,GR7` with GR7 = 0x0300 (V7). -/
theorem test_call_indexed :
  after (start 0 0 0 0x0020 0xFFF0 [(0x0020, 0x8007), (0x0021, 0x0008)])
    (fun t => (t.sp, t.load 0xFFEF, t.pr)) = some (0xFFEF, 0x0022, 0x0308) := by decide

/-- RET pops PR (V7). -/
theorem test_ret_pops :
  after (start 0 0 0 0x0100 0xFFEF [(0x0100, 0x8100), (0xFFEF, 0x0022)])
    (fun t => (t.pr, t.sp, t.load 0xFFEF)) = some (0x0022, 0xFFF0, 0x0022) := by decide

/-- The SVC of V8 at 0x0030: trap 5 is configured, trap number 2 + GR1. -/
def svcState (g1 : Word) : State :=
  hostTrapSet 5 0x0400 (start g1 0 0 0x0030 0xFFF0 [(0x0030, 0xF001), (0x0031, 0x0002)])

/-- SVC hit, indexed number (V8). -/
theorem test_svc_hit :
  after (svcState 3) (fun t => (t.sp, t.load 0xFFEF, t.pr, t.fr)) =
    some (0xFFEF, 0x0032, 0x0400, ⟨true, false, true⟩) := by decide

/-- SVC miss: code 2 and the state as it was (V8, R203). -/
theorem test_svc_miss :
  hostStep (svcState 0x8003) = some (.trapMiss, svcState 0x8003) ∧ StepCode.trapMiss.number = 2 := by
  decide

/-- An illegal opcode: code 1 and the state as it was (S8). -/
theorem test_illegal_step :
  hostStep (start 0 0 0x33 0x10 0x9000 [(0x10, 0x9900)]) =
    some (.illegalInstruction, start 0 0 0x33 0x10 0x9000 [(0x10, 0x9900)]) ∧
  StepCode.illegalInstruction.number = 1 := by decide

/-- A reserved register field is refused, not a fault (V8, R82). -/
theorem test_reserved_step_refused :
  hostStep (start 0 0 0 0x10 0x9000 [(0x10, 0x1480)]) = none := by decide

/-- A store into the next instruction is what the next step fetches (P5). -/
theorem test_store_is_fetched :
  after (start 0x1471 0 0 2 0 [(2, 0x1110), (3, 0x0004)]) (fun t => (t.pr, fetchInstr t)) =
    some (4, .ok (.ldRR 7 1)) := by decide

/-- `callInto(0)` of the end-to-end scenario (S1, V7). -/
theorem test_callInto :
  ((hostCallInto 0 (start 0 0 0 0xFFFF 0xFFFF [])).pr,
   (hostCallInto 0 (start 0 0 0 0xFFFF 0xFFFF [])).sp,
   (hostCallInto 0 (start 0 0 0 0xFFFF 0xFFFF [])).load 0xFFFE) = (0, 0xFFFE, 0xFFFF) := by decide

/-- The sentinel ends a run before the word at it is looked at (R242). -/
theorem test_drive_sentinel :
  drive 0xFFFF 5 (start 0 0 0 0xFFFF 0 [(0xFFFF, 0x9900)]) =
    .sentinel (start 0 0 0 0xFFFF 0 [(0xFFFF, 0x9900)]) := by decide

/-- The packing of FR: OF is bit 2, ZF is bit 0 (R38). -/
theorem test_flags_packed : hostGetFlagsPacked (start 0 0 0 0 0 []) = 0b101 := by decide

/-- The accesses of a CALL and of an SVC that misses, in order (R60). -/
theorem test_accesses :
  stepAccesses (start 0 0 0 0x20 0xFFF0 [(0x20, 0x8000), (0x21, 0x0100)]) =
    [.read 0x20, .read 0x21, .write 0xFFEF] ∧
  stepAccesses (svcState 0) = [.read 0x30, .read 0x31] := by decide

/-- Host arguments are reduced modulo 65536 and a register index of 8 is refused (R234, R235). -/
theorem test_host_arguments :
  hostGetProgramCounter (hostSetProgramCounter (-1) State.reset) = 0xFFFF ∧
  hostGetRegister 8 State.reset = .error (.noSuchRegister 8) := by decide

/-- Writing the word an unlisted address reads as removes the entry (log 1). -/
theorem test_memory_canonical :
  Memory.write (Memory.write [] 5 7) 5 0 = [] ∧
  Memory.write (Memory.write [] 9 1) 5 7 = [(5, 7), (9, 1)] := by decide

/-- A placed instruction is the next one executed (log 16). -/
theorem test_placed_word : after (State.reset.withFetchWord 16 0x1210) (fun t => (t.reg 1, t.pr)) =
    some (0, 2) := by decide

/-! Witnesses: for each obligation with hypotheses, a concrete case that meets all of them together,
with a case at the boundary for each clause. -/

theorem test_witness_DecodeEncode :
  (Instr.ld 7 0xFFFF 7).WellFormed ∧ Instr.ret.WellFormed := by decide

theorem test_witness_DecodeSound :
  decode [0x71F0, 0x64F7, 0xFFFF] = .error (.word (.reservedField 15)) ∧
  decode [0x64F7, 0xFFFF, 0x8100] = .ok (.jump 0xFFFF 7, [0x8100]) := by decide

theorem test_witness_IllegalOpcodes :
  illegalOp 0x01FF ∧ illegalOp 0xEF00 ∧ illegalOp 0xF100 ∧ ¬ illegalOp 0xF000 ∧ ¬ illegalOp 0x00FF := by
  decide

theorem test_witness_ReservedFieldsRejected :
  firstReserved (Instr.st 8 0 15).usedFields = some 8 ∧
  firstReserved (Instr.st 7 0 15).usedFields = some 15 := by decide

theorem test_witness_IgnoredBits :
  decodeWords 0x8000 5 = .ok (.call 5 0) ∧
  0x80F0 &&& usedBits (Instr.call 5 0).format = 0x8000 &&& usedBits (Instr.call 5 0).format ∧
  decodeWords 0x6409 5 = .error (.reservedField 9) ∧
  instrOf (descriptor 0x6409) 5 = some (.jump 5 9) ∧
  0x64F9 &&& usedBits (Instr.jump 5 9).format = 0x6409 &&& usedBits (Instr.jump 5 9).format ∧
  decodeWords 0x99FF 5 = .error (.illegalInstruction 0x99FF) ∧
  (0x9900#16).toNat / 256 = (0x99FF#16).toNat / 256 := by decide

theorem test_witness_LengthFromOpcode :
  (0x1000#16).toNat / 256 = (0x10FF#16).toNat / 256 ∧ decodeWords 0x1000 0 = .ok (.ld 0 0 0) ∧
  illegalOp 0x9900 := by decide

theorem test_witness_StepRunsDecoded :
  decode [(start 0 0 0 0xFFFF 0 [(0, 0xBEEF), (0xFFFF, 0x1210)]).load 0xFFFF,
    (start 0 0 0 0xFFFF 0 [(0, 0xBEEF), (0xFFFF, 0x1210)]).load (0xFFFF + 1)] =
    .ok (.lad 1 0xBEEF 0, []) := by decide

theorem test_witness_IllegalStepFaults :
  illegalOp ((start 0 0 0 0x10 0 [(0x10, 0x9900)]).load (start 0 0 0 0x10 0 [(0x10, 0x9900)]).pr) := by decide

theorem test_witness_ReservedStepRefused :
  firstReserved (Instr.ldRR 8 0).usedFields = some 8 ∧
  (encode (.ldRR 8 0)).head? =
    some ((start 0 0 0 0x10 0 [(0x10, 0x1480)]).load 0x10 &&& usedBits (Instr.ldRR 8 0).format) ∧
  firstReserved (Instr.pop 8).usedFields = some 8 ∧
  (encode (.pop 8)).head? =
    some ((start 0 0 0 0x10 0 [(0x10, 0x718F)]).load 0x10 &&& usedBits (Instr.pop 8).format) ∧
  firstReserved (Instr.jump 0 9).usedFields = some 9 ∧
  (encode (.jump 0 9)).head? =
    some ((start 0 0 0 0x10 0 [(0x10, 0x64F9)]).load 0x10 &&& usedBits (Instr.jump 0 9).format) := by
  decide

theorem test_witness_ReservedInstrRefused :
  firstReserved (Instr.pop 8).usedFields = some 8 ∧ firstReserved (Instr.svc 0 15).usedFields = some 15 := by decide

theorem test_witness_FatalStepCommitsNothing :
  (match step (start 0 0 0 0x10 0 [(0x10, 0x9900)]) with
    | .fault e => some e
    | .next _ | .refused _ => none) = some (.illegalInstruction 0x9900) ∧
  (match step (svcState 0) with
    | .fault e => some e
    | .next _ | .refused _ => none) = some (.trapMiss 2) ∧
  (after (svcState 3) State.pr).isSome := by decide

theorem test_witness_OnlyTwoFatalConditions :
  illegalOp 0x9900 ∧ fetchInstr (svcState 0) = .ok (.svc 2 1) ∧
  missedTrap (.svc 2 1) (svcState 0) = some 2 := by decide

theorem test_witness_EveryOtherStepCompletes :
  fetchInstr (svcState 3) = .ok (.svc 2 1) ∧ missedTrap (.svc 2 1) (svcState 3) = none ∧
  fetchInstr State.reset = .ok .nop ∧ missedTrap .nop State.reset = none := by decide

theorem test_witness_LdEffect :
  namesRegister 0 ∧ namesRegister 7 := by decide

theorem test_witness_LadEffect :
  namesRegister 0 ∧ namesRegister 7 := by decide

theorem test_witness_LdRegisterEffect :
  namesRegister 0 ∧ namesRegister 7 := by decide

theorem test_witness_StEffect :
  namesRegister 0 ∧ namesRegister 7 := by decide

theorem test_witness_SignedArithmeticEffect :
  namesRegister 0 ∧ namesRegister 7 := by decide

theorem test_witness_UnsignedArithmeticEffect :
  namesRegister 0 ∧ namesRegister 7 := by decide

theorem test_witness_LogicEffect :
  namesRegister 0 ∧ namesRegister 7 := by decide

theorem test_witness_CompareEffect :
  namesRegister 0 ∧ namesRegister 7 := by decide

theorem test_witness_SignedUnsignedDifferInOverflowOnly :
  namesRegister 0 ∧ namesRegister 7 := by decide

theorem test_witness_ShiftEffect :
  namesRegister 1 ∧ namesRegister 2 ∧ ((start 0x4001 3 0 0 0 []).effAddr 0 0).toNat = 0 ∧
  ((start 0x4001 3 0 0 0 []).effAddr 12 2).toNat = 15 ∧ ((start 0x4001 3 0 0 0 []).reg 1).toNat = 0x4001 ∧ 15 ≤ 15 := by decide

theorem test_witness_LongShiftEffect :
  namesRegister 1 ∧ namesRegister 2 ∧ ((start 0x4001 3 0 0 0 []).effAddr 13 2).toNat = 16 ∧
  ((start 0x4001 3 0 0 0 []).effAddr 14 2).toNat = 17 ∧ ((start 0x4001 3 0 0 0 []).effAddr 0xFFFF 0).toNat = 65535 ∧
  ((start 0x4001 3 0 0 0 []).reg 1).toNat = 0x4001 ∧ 16 ≤ 16 ∧ 16 ≤ 65535 := by decide

theorem test_witness_JumpEffect :
  namesRegister 0 ∧ namesRegister 7 ∧ (svcState 0).fr.of = true ∧ (svcState 0).fr.sf = false ∧
  (svcState 0).fr.zf = true ∧ State.reset.fr.of = false ∧ State.reset.fr.zf = false := by decide

theorem test_witness_PushEffect :
  namesRegister 0 ∧ namesRegister 7 := by decide

theorem test_witness_PopEffect :
  namesRegister 0 ∧ namesRegister 7 := by decide

theorem test_witness_CallEffect :
  namesRegister 0 ∧ namesRegister 7 := by decide

theorem test_witness_ResetHasNoTraps :
  namesRegister 0 ∧ namesRegister 7 := by decide

theorem test_witness_SvcHitEffect :
  namesRegister 1 ∧ TrapTable.target (svcState 3).traps ((svcState 3).effAddr 2 1) = some 0x0400 := by decide

theorem test_witness_SvcMissFaults :
  namesRegister 1 ∧ TrapTable.target (svcState 0).traps ((svcState 0).effAddr 2 1) = none ∧
  (match exec (.svc 2 1) (svcState 0) with
    | .fault e => some e
    | .next _ | .refused _ => none) = some (.trapMiss 2) := by decide

theorem test_witness_RegisterWriteTable :
  ∃ t, exec (.ldRR 1 2) State.reset = .next t := ⟨_, rfl⟩

theorem test_witness_StackPointerTable :
  ∃ t, exec (.pop 7) State.reset = .next t := ⟨_, rfl⟩

theorem test_witness_MemoryWriteTable :
  ∃ t, exec (.push 1 7) State.reset = .next t := ⟨_, rfl⟩

theorem test_witness_ControlFlowTable :
  ∃ t, exec (.jze 9 7) State.reset = .next t := ⟨_, rfl⟩

theorem test_witness_RegisterReadTable :
  (2 : RegField) ∉ regsRead (.ldRR 2 1) ∧ (0 : RegField) ∉ regsRead (.jump 5 0) ∧
  regWritten (.ldRR 2 1) = some 2 := by decide

theorem test_witness_FlagTables :
  (∃ t, exec .ret State.reset = .next t) ∧ writesFlags .ret = false ∧ readsFlags .ret = false ∧
  readsFlags (.cpaRR 1 2) = false ∧ writesFlags (.cpaRR 1 2) = true := 
  ⟨⟨_, rfl⟩, by decide⟩

theorem test_witness_TrapTableRole :
  (∃ t, step State.reset = .next t) ∧ ∀ adr x, Instr.nop ≠ .svc adr x := 
  ⟨⟨_, rfl⟩, by simp⟩

theorem test_witness_StepKeepsInvariant :
  Canonical (svcState 3) ∧ ∃ t, step (svcState 3) = .next t := ⟨by decide, _, rfl⟩

theorem test_witness_HostKeepsInvariant :
  Canonical (svcState 3) ∧ ∃ t, hostSetRegister 7 5 (svcState 3) = .next t := 
  ⟨by decide, _, rfl⟩

theorem test_witness_CanonicalMemoryExtensional :
  Memory.wf [(0, 1), (65535, 2)] ∧
  ∀ a, Memory.read [(0, 1), (65535, 2)] a = Memory.read [(0, 1), (65535, 2)] a := 
  ⟨by decide, fun _ => rfl⟩

theorem test_witness_WritesAreListed :
  (∃ t, step (svcState 3) = .next t) ∧ .write 0xFFF0 ∉ stepAccesses (svcState 3) ∧
  Stops (step (svcState 0)) := ⟨⟨_, rfl⟩, by decide, trivial⟩

theorem test_witness_ReadsAreListed :
  ∀ a, .read a ∈ stepAccesses (svcState 3) →
    Memory.read (Memory.write (svcState 3).mem 0x50 1) a = (svcState 3).load a := by
  intro a h
  rw [show stepAccesses (svcState 3) = [.read 0x30, .read 0x31, .write 0xFFEF] by decide] at h
  simp at h
  rcases h with rfl | rfl <;> decide

theorem test_witness_PushPopRoundTrip :
  namesRegister 0 ∧ namesRegister 7 ∧ (start 0 0 0 5 0 []).sp = 0 := by decide

theorem test_witness_EnterReturnRoundTrip :
  namesRegister 1 ∧ TrapTable.target (svcState 3).traps ((svcState 3).effAddr 2 1) = some 0x0400 := by decide

theorem test_witness_CompareThenJump :
  namesRegister 0 ∧ namesRegister 1 ∧ namesRegister 7 := by decide

theorem test_witness_ArithmeticShiftFlags :
  namesRegister 1 ∧ namesRegister 2 ∧ (start 0x4001 3 0 0 0 []).effAddr 12 2 ≠ 0 ∧ ((start 0x4001 3 0 0 0 []).effAddr 12 2).toNat ≤ 15 := by decide

theorem test_witness_StoredWordIsFetched :
  namesRegister 1 ∧ namesRegister 0 ∧ (start 0x1471 0 0 2 0 []).effAddr 4 0 = 2 + 2 ∧
  decodeWords ((start 0x1471 0 0 2 0 []).reg 1) ((start 0x1471 0 0 2 0 []).load (2 + 3)) =
    .ok (.ldRR 7 1) := by decide

theorem test_witness_PlacedInstructionRuns :
  decodeTableWord 16 0x1210 = some (.lad 1 0 0) := by decide

theorem test_witness_HostRegisterOperations :
  (7 : Nat) < 8 ∧ (8 : Nat) ≤ 8 := by decide

theorem test_witness_HostMemoryAndTraps :
  trunc16 65536 ≠ trunc16 (-1) ∧ 1 < [0x1210#16, 0x0007#16].length ∧
  [0x1210#16, 0x0007#16].length ≤ 65536 ∧ (0x0000 : Word) ≠ trunc16 1 ∧
  (∀ k < [0x1210#16, 0x0007#16].length, 0x0001#16 ≠ 0xFFFF#16 + BitVec.ofNat 16 k) := by decide

theorem test_witness_DriveEnds :
  (svcState 3).pr = 0x0030 ∧ drive 0x0400 1 (svcState 3) = .sentinel ((svcState 3).advance 2 |>.enter 0x0400) ∧
  drive 0xFFFF 1 (svcState 0) = .fatal (.trapMiss 2) (svcState 0) ∧
  drive 0xFFFF 0 (svcState 0) = .limit (svcState 0) := by decide

end Sys2Proof.Tests
end

section
/-! PROOFS. The rules that every instruction's effect rests on: the check of two fields, the value of
the effective address, the flags of a result, and the frames of the shared updates (spec R11, R24,
R60, R76, R82). -/

namespace Sys2Proof.Machine

open Sys2Proof.Safety

/-- With both fields naming a register, the check of an instruction of two fields changes nothing. -/
theorem checkFields_pair {f g : RegField} (out : Outcome) (hf : namesRegister f)
    (hg : namesRegister g) : checkFields [f, g] out = out :=
  checkFields_ok _ _ (by simp [hf, hg])

/-- The effective address as a number: a flag-free sum that wraps modulo 65536 (R76, R102). -/
theorem State.toNat_effAddr (s : State) (adr : Word) (x : RegField) :
    (s.effAddr adr x).toNat = (adr.toNat + if x = 0 then 0 else (s.reg x).toNat) % 65536 := by
  by_cases hx : x = 0
  · rw [if_pos hx, hx, State.effAddr_zero, Nat.add_zero, Nat.mod_eq_of_lt adr.isLt]
  · rw [if_neg hx, State.effAddr_index s adr x hx, BitVec.toNat_add]

/-- Flags computed from the result `y` are the flags the claims speak of (R11). -/
theorem flagsAre_of_fr {t : State} {o : Bool} {y : Word} {p : Prop} (hfr : t.fr = flagsOf o y)
    (ho : o = true ↔ p) : FlagsAre p y t := by
  rw [FlagsAre, hfr]
  refine ⟨ho, ?_, ?_⟩
  · simp [flagsOf, BitVec.msb_eq_decide]
  · simp [flagsOf, BitVec.toNat_eq]

/-- Passing the instruction's words writes no data. -/
theorem writesNoData_advance (s : State) (n : Nat) : WritesNoData s (s.advance n) :=
  ⟨fun _ => rfl, rfl, fun _ => rfl, rfl⟩

/-- Writing one register after passing the instruction's words writes no other data. -/
theorem writesOnlyReg_setReg (s : State) (n : Nat) (r : RegField) (v : Word) :
    WritesOnlyReg r s ((s.advance n).setReg r v) :=
  ⟨fun f hf => (s.advance n).reg_setReg_ne r f v hf, rfl, fun _ => rfl, rfl⟩

/-- Writing a result writes its register and, besides the flags, no other data. -/
theorem writesOnlyReg_writeResult (s : State) (n : Nat) (r : RegField) (res : Word × Flags) :
    WritesOnlyReg r s ((s.advance n).writeResult r res) :=
  writesOnlyReg_setReg s n r res.1

/-- A store after passing the instruction's words changes no word of memory but its own. -/
theorem sameMemBut_store (s : State) (n : Nat) (a v : Word) :
    SameMemBut a s ((s.advance n).store a v) :=
  fun b hb => (s.advance n).load_store_ne a b v hb

end Sys2Proof.Machine
end

section
/-! PROOFS. The effect of NOP, LAD, LD between registers and ST (spec R100, R102, R103, R104). -/

namespace Sys2Proof.Machine

open Sys2Proof.Safety

/-- LAD of fields that name registers completes (R102). -/
theorem exec_lad {r x : RegField} (adr : Word) (s : State) (hr : namesRegister r)
    (hx : namesRegister x) :
    exec (.lad r adr x) s = .next ((s.advance 2).setReg r (s.effAddr adr x)) :=
  checkFields_pair _ hr hx

/-- LD of fields that name registers completes (R103). -/
theorem exec_ldRR {r1 r2 : RegField} (s : State) (h1 : namesRegister r1) (h2 : namesRegister r2) :
    exec (.ldRR r1 r2) s = .next ((s.advance 1).writeResult r1 (clearing (s.reg r2))) :=
  checkFields_pair _ h1 h2

/-- ST of fields that name registers completes (R104). -/
theorem exec_st {r x : RegField} (adr : Word) (s : State) (hr : namesRegister r)
    (hx : namesRegister x) :
    exec (.st r adr x) s = .next ((s.advance 2).store (s.effAddr adr x) (s.reg r)) :=
  checkFields_pair _ hr hx

/-- Settles O17: the register reads back the effective address, whose value wraps at 65536. -/
theorem ladEffect : Obligations.LadEffect := by
  intro r adr x s hr hx
  have hreg := (s.advance 2).reg_setReg_same r (s.effAddr adr x) hr
  exact ⟨_, exec_lad adr s hr hx, (congrArg BitVec.toNat hreg).trans (s.toNat_effAddr adr x), hreg,
    rfl, rfl, writesOnlyReg_setReg s 2 r _⟩

/-- Settles O18: the register reads back the value moved, and OF is cleared. -/
theorem ldRegisterEffect : Obligations.LdRegisterEffect := by
  intro r1 r2 s h1 h2
  have hflags : FlagsAre False (s.reg r2) ((s.advance 1).writeResult r1 (clearing (s.reg r2))) :=
    flagsAre_of_fr rfl (by decide)
  exact ⟨_, exec_ldRR s h1 h2, (s.advance 1).reg_setReg_same r1 (s.reg r2) h1, rfl, hflags,
    writesOnlyReg_writeResult s 1 r1 _⟩

/-- Settles O19: the stored word is read back at its address, and no other word is written. -/
theorem stEffect : Obligations.StEffect := by
  intro r adr x s hr hx
  exact ⟨_, exec_st adr s hr hx, (s.advance 2).load_store_same (s.effAddr adr x) (s.reg r),
    sameMemBut_store s 2 _ _, rfl, fun _ => rfl, rfl, rfl, rfl⟩

/-- Settles O15: NOP completes by passing its one word. -/
theorem nopEffect : Obligations.NopEffect :=
  fun s => ⟨s.advance 1, rfl, rfl, rfl, writesNoData_advance s 1⟩

end Sys2Proof.Machine
end

section
/-! PROOFS. The effect of add and subtract, signed and unsigned, with a memory operand and with a
register operand (spec R110 to R119). One rule says what writing a narrowed integer does; the four
operations differ only in the exact integer and in when it overflows. -/

namespace Sys2Proof.Machine

open Sys2Proof.Safety

/-- The truncated word as a number: the exact integer modulo 65536 (R110, R111). -/
theorem toNat_trunc16 (n : Int) : ((trunc16 n).toNat : Int) = n % 65536 := by
  have hpos : 0 ≤ n % 65536 := Int.emod_nonneg n (by decide)
  simp [trunc16, BitVec.toNat_ofInt, Int.toNat_of_nonneg hpos]

/-- The spec's signed reading of a word is the library's (R10). -/
theorem s16_eq_toInt (v : Word) : s16 v = v.toInt := (BitVec.toInt_eq_msb_cond v).symm

/-- Outside the signed range, as the claims say it (R110). -/
theorem outsideSigned_iff (n : Int) : outsideSigned n = true ↔ n < -32768 ∨ 32767 < n := by
  simp [outsideSigned]

/-- A sum of two unsigned words is never negative, so it overflows by a carry only (R111). -/
theorem carry_iff (a b : Word) :
    decide (65535 < u16 a + u16 b) = true ↔ u16 a + u16 b < 0 ∨ 65535 < u16 a + u16 b := by
  have hsum : 0 ≤ u16 a + u16 b := Int.add_nonneg (Int.natCast_nonneg _) (Int.natCast_nonneg _)
  rw [decide_eq_true_iff]
  omega

/-- A difference of two unsigned words never exceeds 65535, so it overflows by a borrow only
(R111). -/
theorem borrow_iff (a b : Word) :
    decide (u16 a - u16 b < 0) = true ↔ u16 a - u16 b < 0 ∨ 65535 < u16 a - u16 b := by
  have hdiff : u16 a - u16 b ≤ 65535 := by
    have ha := a.isLt
    simp only [u16]
    omega
  rw [decide_eq_true_iff]
  omega

section
variable {r : RegField} (a b : Word) (s : State) (k : Nat) (hr : namesRegister r)
include hr

/-- Writing a narrowed integer: its truncation in the register, the flags of that word with the
overflow given, no other data (R110, R111). -/
theorem writeResult_narrow {n : Int} {o : Bool} {p : Prop} (ho : o = true ↔ p) :
    let t := (s.advance k).writeResult r (narrow n o)
    ((t.reg r).toNat : Int) = n % 65536 ∧ FlagsAre p (t.reg r) t ∧ WritesOnlyReg r s t := by
  intro t
  have hreg : t.reg r = trunc16 n := (s.advance k).reg_setReg_same r (trunc16 n) hr
  have hflags : FlagsAre p (trunc16 n) t := flagsAre_of_fr rfl ho
  rw [hreg]
  exact ⟨toNat_trunc16 n, hflags, writesOnlyReg_writeResult s k r _⟩

/-- Signed add gives the exact signed sum (R110). -/
theorem signedResult_addA :
    SignedResult r (a.toInt + b.toInt) s ((s.advance k).writeResult r (addA a b)) := by
  rw [← s16_eq_toInt, ← s16_eq_toInt]
  exact writeResult_narrow s k hr (outsideSigned_iff _)

/-- Signed subtract gives the exact signed difference, left minus right (R110). -/
theorem signedResult_subA :
    SignedResult r (a.toInt - b.toInt) s ((s.advance k).writeResult r (subA a b)) := by
  rw [← s16_eq_toInt, ← s16_eq_toInt]
  exact writeResult_narrow s k hr (outsideSigned_iff _)

/-- Unsigned add gives the exact unsigned sum (R111). -/
theorem unsignedResult_addL :
    UnsignedResult r ((a.toNat : Int) + (b.toNat : Int)) s
      ((s.advance k).writeResult r (addL a b)) :=
  writeResult_narrow s k hr (carry_iff a b)

/-- Unsigned subtract gives the exact unsigned difference, left minus right (R111). -/
theorem unsignedResult_subL :
    UnsignedResult r ((a.toNat : Int) - (b.toNat : Int)) s
      ((s.advance k).writeResult r (subL a b)) :=
  writeResult_narrow s k hr (borrow_iff a b)

end

section
variable {r x r1 r2 : RegField} (adr : Word) (s : State)

/-- ADDA from memory, of fields that name registers, completes (R112). -/
theorem exec_adda (hr : namesRegister r) (hx : namesRegister x) :
    exec (.adda r adr x) s =
      .next ((s.advance 2).writeResult r (addA (s.reg r) (s.load (s.effAddr adr x)))) :=
  checkFields_pair _ hr hx

/-- SUBA from memory, of fields that name registers, completes (R116). -/
theorem exec_suba (hr : namesRegister r) (hx : namesRegister x) :
    exec (.suba r adr x) s =
      .next ((s.advance 2).writeResult r (subA (s.reg r) (s.load (s.effAddr adr x)))) :=
  checkFields_pair _ hr hx

/-- ADDL from memory, of fields that name registers, completes (R114). -/
theorem exec_addl (hr : namesRegister r) (hx : namesRegister x) :
    exec (.addl r adr x) s =
      .next ((s.advance 2).writeResult r (addL (s.reg r) (s.load (s.effAddr adr x)))) :=
  checkFields_pair _ hr hx

/-- SUBL from memory, of fields that name registers, completes (R118). -/
theorem exec_subl (hr : namesRegister r) (hx : namesRegister x) :
    exec (.subl r adr x) s =
      .next ((s.advance 2).writeResult r (subL (s.reg r) (s.load (s.effAddr adr x)))) :=
  checkFields_pair _ hr hx

/-- ADDA of fields that name registers completes (R113). -/
theorem exec_addaRR (h1 : namesRegister r1) (h2 : namesRegister r2) :
    exec (.addaRR r1 r2) s = .next ((s.advance 1).writeResult r1 (addA (s.reg r1) (s.reg r2))) :=
  checkFields_pair _ h1 h2

/-- SUBA of fields that name registers completes (R117). -/
theorem exec_subaRR (h1 : namesRegister r1) (h2 : namesRegister r2) :
    exec (.subaRR r1 r2) s = .next ((s.advance 1).writeResult r1 (subA (s.reg r1) (s.reg r2))) :=
  checkFields_pair _ h1 h2

/-- ADDL of fields that name registers completes (R115). -/
theorem exec_addlRR (h1 : namesRegister r1) (h2 : namesRegister r2) :
    exec (.addlRR r1 r2) s = .next ((s.advance 1).writeResult r1 (addL (s.reg r1) (s.reg r2))) :=
  checkFields_pair _ h1 h2

/-- SUBL of fields that name registers completes (R119). -/
theorem exec_sublRR (h1 : namesRegister r1) (h2 : namesRegister r2) :
    exec (.sublRR r1 r2) s = .next ((s.advance 1).writeResult r1 (subL (s.reg r1) (s.reg r2))) :=
  checkFields_pair _ h1 h2

end

/-- Settles O20: each of the four forms writes its exact signed result narrowed. -/
theorem signedArithmeticEffect : Obligations.SignedArithmeticEffect := by
  refine ⟨?adda, ?addaRR, ?suba, ?subaRR⟩
  case adda =>
    exact fun r adr x s hr hx => ⟨_, exec_adda adr s hr hx, rfl, signedResult_addA _ _ s 2 hr⟩
  case addaRR =>
    exact fun r1 r2 s h1 h2 => ⟨_, exec_addaRR s h1 h2, rfl, signedResult_addA _ _ s 1 h1⟩
  case suba =>
    exact fun r adr x s hr hx => ⟨_, exec_suba adr s hr hx, rfl, signedResult_subA _ _ s 2 hr⟩
  case subaRR =>
    exact fun r1 r2 s h1 h2 => ⟨_, exec_subaRR s h1 h2, rfl, signedResult_subA _ _ s 1 h1⟩

/-- Settles O21: each of the four forms writes its exact unsigned result narrowed. -/
theorem unsignedArithmeticEffect : Obligations.UnsignedArithmeticEffect := by
  refine ⟨?addl, ?addlRR, ?subl, ?sublRR⟩
  case addl =>
    exact fun r adr x s hr hx => ⟨_, exec_addl adr s hr hx, rfl, unsignedResult_addL _ _ s 2 hr⟩
  case addlRR =>
    exact fun r1 r2 s h1 h2 => ⟨_, exec_addlRR s h1 h2, rfl, unsignedResult_addL _ _ s 1 h1⟩
  case subl =>
    exact fun r adr x s hr hx => ⟨_, exec_subl adr s hr hx, rfl, unsignedResult_subL _ _ s 2 hr⟩
  case sublRR =>
    exact fun r1 r2 s h1 h2 => ⟨_, exec_sublRR s h1 h2, rfl, unsignedResult_subL _ _ s 1 h1⟩

end Sys2Proof.Machine
end

section
/-! PROOFS. The effect of AND, OR and XOR with a memory operand and with a register operand (spec
R130 to R136). One rule says what writing a word that clears OF does; the three operations differ
only in how they combine the bits. -/

namespace Sys2Proof.Machine

open Sys2Proof.Safety

section
variable {r : RegField} (a b : Word) (s : State) (k : Nat) (hr : namesRegister r)
include hr

/-- Writing a word that clears OF: its bits in the register, SF and ZF of that word, no other data
(R130). -/
theorem bitwiseResult_clearing {y : Word} {bit : Nat → Bool} (hbit : ∀ i, y.getLsbD i = bit i) :
    BitwiseResult r bit s ((s.advance k).writeResult r (clearing y)) := by
  have hreg : ((s.advance k).writeResult r (clearing y)).reg r = y :=
    (s.advance k).reg_setReg_same r y hr
  have hflags : FlagsAre False y ((s.advance k).writeResult r (clearing y)) :=
    flagsAre_of_fr rfl (by decide)
  rw [BitwiseResult, hreg]
  exact ⟨fun i _ => hbit i, hflags, writesOnlyReg_writeResult s k r _⟩

/-- AND combines bit by bit (R130). -/
theorem bitwiseResult_logicAnd :
    BitwiseResult r (fun i => a.getLsbD i && b.getLsbD i) s
      ((s.advance k).writeResult r (logicAnd a b)) :=
  bitwiseResult_clearing s k hr fun _ => BitVec.getLsbD_and

/-- OR combines bit by bit (R130). -/
theorem bitwiseResult_logicOr :
    BitwiseResult r (fun i => a.getLsbD i || b.getLsbD i) s
      ((s.advance k).writeResult r (logicOr a b)) :=
  bitwiseResult_clearing s k hr fun _ => BitVec.getLsbD_or

/-- XOR combines bit by bit (R130). -/
theorem bitwiseResult_logicXor :
    BitwiseResult r (fun i => a.getLsbD i ^^ b.getLsbD i) s
      ((s.advance k).writeResult r (logicXor a b)) :=
  bitwiseResult_clearing s k hr fun _ => BitVec.getLsbD_xor

end

section
variable {r x r1 r2 : RegField} (adr : Word) (s : State)

/-- AND from memory, of fields that name registers, completes (R131). -/
theorem exec_and (hr : namesRegister r) (hx : namesRegister x) :
    exec (.and r adr x) s =
      .next ((s.advance 2).writeResult r (logicAnd (s.reg r) (s.load (s.effAddr adr x)))) :=
  checkFields_pair _ hr hx

/-- OR from memory, of fields that name registers, completes (R132). -/
theorem exec_or (hr : namesRegister r) (hx : namesRegister x) :
    exec (.or r adr x) s =
      .next ((s.advance 2).writeResult r (logicOr (s.reg r) (s.load (s.effAddr adr x)))) :=
  checkFields_pair _ hr hx

/-- XOR from memory, of fields that name registers, completes (R133). -/
theorem exec_xor (hr : namesRegister r) (hx : namesRegister x) :
    exec (.xor r adr x) s =
      .next ((s.advance 2).writeResult r (logicXor (s.reg r) (s.load (s.effAddr adr x)))) :=
  checkFields_pair _ hr hx

/-- AND of fields that name registers completes (R134). -/
theorem exec_andRR (h1 : namesRegister r1) (h2 : namesRegister r2) :
    exec (.andRR r1 r2) s = .next ((s.advance 1).writeResult r1 (logicAnd (s.reg r1) (s.reg r2))) :=
  checkFields_pair _ h1 h2

/-- OR of fields that name registers completes (R135). -/
theorem exec_orRR (h1 : namesRegister r1) (h2 : namesRegister r2) :
    exec (.orRR r1 r2) s = .next ((s.advance 1).writeResult r1 (logicOr (s.reg r1) (s.reg r2))) :=
  checkFields_pair _ h1 h2

/-- XOR of fields that name registers completes (R136). -/
theorem exec_xorRR (h1 : namesRegister r1) (h2 : namesRegister r2) :
    exec (.xorRR r1 r2) s = .next ((s.advance 1).writeResult r1 (logicXor (s.reg r1) (s.reg r2))) :=
  checkFields_pair _ h1 h2

end

/-- Settles O22: each of the six forms writes its operands combined bit by bit, and clears OF. -/
theorem logicEffect : Obligations.LogicEffect := by
  refine ⟨?and, ?andRR, ?or, ?orRR, ?xor, ?xorRR⟩
  case and =>
    exact fun r adr x s hr hx => ⟨_, exec_and adr s hr hx, rfl, bitwiseResult_logicAnd _ _ s 2 hr⟩
  case andRR =>
    exact fun r1 r2 s h1 h2 => ⟨_, exec_andRR s h1 h2, rfl, bitwiseResult_logicAnd _ _ s 1 h1⟩
  case or =>
    exact fun r adr x s hr hx => ⟨_, exec_or adr s hr hx, rfl, bitwiseResult_logicOr _ _ s 2 hr⟩
  case orRR =>
    exact fun r1 r2 s h1 h2 => ⟨_, exec_orRR s h1 h2, rfl, bitwiseResult_logicOr _ _ s 1 h1⟩
  case xor =>
    exact fun r adr x s hr hx => ⟨_, exec_xor adr s hr hx, rfl, bitwiseResult_logicXor _ _ s 2 hr⟩
  case xorRR =>
    exact fun r1 r2 s h1 h2 => ⟨_, exec_xorRR s h1 h2, rfl, bitwiseResult_logicXor _ _ s 1 h1⟩

end Sys2Proof.Machine
end

section
/-! PROOFS. The effect of CPA and CPL with a memory operand and with a register operand (spec R140 to
R144). One rule for each comparison says what its flags tell of the operands; the memory and the
register form differ only in where the right operand stands. -/

namespace Sys2Proof.Machine

open Sys2Proof.Safety

/-- The flags of a signed compare: OF cleared, the true signed order, equality (R140). -/
theorem cmpA_flags (a b : Word) :
    (cmpA a b).of = false ∧ ((cmpA a b).sf = true ↔ a.toInt < b.toInt) ∧
      ((cmpA a b).zf = true ↔ a = b) := by
  rw [← s16_eq_toInt, ← s16_eq_toInt]
  exact ⟨rfl, decide_eq_true_iff, decide_eq_true_iff⟩

/-- The flags of an unsigned compare: OF cleared, the true unsigned order, equality (R140). -/
theorem cmpL_flags (a b : Word) :
    (cmpL a b).of = false ∧ ((cmpL a b).sf = true ↔ a.toNat < b.toNat) ∧
      ((cmpL a b).zf = true ↔ a = b) :=
  ⟨rfl, decide_eq_true_iff.trans Int.ofNat_lt, decide_eq_true_iff⟩

/-- Writing the flags after passing the instruction's words writes no data. -/
theorem writesNoData_setFlags (s : State) (n : Nat) (f : Flags) :
    WritesNoData s ((s.advance n).setFlags f) :=
  writesNoData_advance s n

section
variable (a b : Word) (s : State) (k : Nat)

/-- Writing the flags of a signed compare has the effect of one (R140). -/
theorem compareResult_cmpA :
    CompareResult (a.toInt < b.toInt) (a = b) s ((s.advance k).setFlags (cmpA a b)) := by
  obtain ⟨hof, hsf, hzf⟩ := cmpA_flags a b
  exact ⟨hof, hsf, hzf, writesNoData_setFlags s k _⟩

/-- Writing the flags of an unsigned compare has the effect of one (R140). -/
theorem compareResult_cmpL :
    CompareResult (a.toNat < b.toNat) (a = b) s ((s.advance k).setFlags (cmpL a b)) := by
  obtain ⟨hof, hsf, hzf⟩ := cmpL_flags a b
  exact ⟨hof, hsf, hzf, writesNoData_setFlags s k _⟩

end

section
variable {r x r1 r2 : RegField} (adr : Word) (s : State)

/-- CPA with memory, of fields that name registers, completes (R141). -/
theorem exec_cpa (hr : namesRegister r) (hx : namesRegister x) :
    exec (.cpa r adr x) s =
      .next ((s.advance 2).setFlags (cmpA (s.reg r) (s.load (s.effAddr adr x)))) :=
  checkFields_pair _ hr hx

/-- CPL with memory, of fields that name registers, completes (R142). -/
theorem exec_cpl (hr : namesRegister r) (hx : namesRegister x) :
    exec (.cpl r adr x) s =
      .next ((s.advance 2).setFlags (cmpL (s.reg r) (s.load (s.effAddr adr x)))) :=
  checkFields_pair _ hr hx

/-- CPA of fields that name registers completes (R143). -/
theorem exec_cpaRR (h1 : namesRegister r1) (h2 : namesRegister r2) :
    exec (.cpaRR r1 r2) s = .next ((s.advance 1).setFlags (cmpA (s.reg r1) (s.reg r2))) :=
  checkFields_pair _ h1 h2

/-- CPL of fields that name registers completes (R144). -/
theorem exec_cplRR (h1 : namesRegister r1) (h2 : namesRegister r2) :
    exec (.cplRR r1 r2) s = .next ((s.advance 1).setFlags (cmpL (s.reg r1) (s.reg r2))) :=
  checkFields_pair _ h1 h2

end

/-- Settles O23: each of the four forms writes the flags of its comparison, and no data. -/
theorem compareEffect : Obligations.CompareEffect := by
  refine ⟨?cpa, ?cpaRR, ?cpl, ?cplRR⟩
  case cpa =>
    exact fun r adr x s hr hx => ⟨_, exec_cpa adr s hr hx, rfl, compareResult_cmpA _ _ s 2⟩
  case cpaRR =>
    exact fun r1 r2 s h1 h2 => ⟨_, exec_cpaRR s h1 h2, rfl, compareResult_cmpA _ _ s 1⟩
  case cpl =>
    exact fun r adr x s hr hx => ⟨_, exec_cpl adr s hr hx, rfl, compareResult_cmpL _ _ s 2⟩
  case cplRR =>
    exact fun r1 r2 s h1 h2 => ⟨_, exec_cplRR s h1 h2, rfl, compareResult_cmpL _ _ s 1⟩

end Sys2Proof.Machine
end

section
/-! PROOFS. The effect of the six jumps (spec R170 to R177). One rule says what a jump does when
it is taken and when it is not; the six differ only in the condition on the flags. -/

namespace Sys2Proof.Machine

open Sys2Proof.Safety

/-- With its field naming a register, the check of an instruction of one field changes nothing. -/
theorem checkFields_single {f : RegField} (out : Outcome) (hf : namesRegister f) :
    checkFields [f] out = out :=
  checkFields_ok _ _ (by simp [hf])

section
variable (adr : Word) (x : RegField) (s : State)

/-- A jump whose condition holds goes to the effective address (R170). -/
theorem State.jumpWhen_taken {cond : Bool} (h : cond = true) :
    s.jumpWhen cond adr x = (s.advance 2).jumpTo (s.effAddr adr x) :=
  if_pos h

/-- A jump whose condition fails passes its two words all the same (R170, D22). -/
theorem State.jumpWhen_notTaken {cond : Bool} (h : ¬ cond = true) :
    s.jumpWhen cond adr x = s.advance 2 :=
  if_neg h

/-- Going to an address after passing the instruction's words writes no flag and no data. -/
theorem jumpResult_jumpTo (n : Nat) (target : Word) :
    JumpResult target s ((s.advance n).jumpTo target) :=
  ⟨rfl, rfl, writesNoData_advance s n⟩

/-- Passing both words alone is a jump to the address after them. -/
theorem jumpResult_advance : JumpResult (s.pr + 2) s (s.advance 2) :=
  ⟨rfl, rfl, writesNoData_advance s 2⟩

/-- A jump on a flag test that says `p`: to the effective address when `p` holds, and otherwise past
both words (R170). -/
theorem jumpResult_jumpWhen {cond : Bool} {p : Prop} (hcond : cond = true ↔ p) :
    (p → JumpResult (s.effAddr adr x) s (s.jumpWhen cond adr x)) ∧
      (¬ p → JumpResult (s.pr + 2) s (s.jumpWhen cond adr x)) := by
  constructor
  · intro hp
    rw [State.jumpWhen_taken adr x s (hcond.2 hp)]
    exact jumpResult_jumpTo s 2 _
  · intro hp
    rw [State.jumpWhen_notTaken adr x s (mt hcond.1 hp)]
    exact jumpResult_advance s

end

/-- The flag test of JPL, as the claims say it: neither negative nor zero (R175). -/
theorem jplCondition_iff (f : Flags) : (!f.sf && !f.zf) = true ↔ f.sf = false ∧ f.zf = false := by
  simp

section
variable {x : RegField} (adr : Word) (s : State) (hx : namesRegister x)
include hx

/-- JMI of a field that names a register completes, and tests SF = 1 (R171). -/
theorem exec_jmi : exec (.jmi adr x) s = .next (s.jumpWhen s.fr.sf adr x) :=
  checkFields_single _ hx

/-- JNZ of a field that names a register completes, and tests ZF = 0 (R172). -/
theorem exec_jnz : exec (.jnz adr x) s = .next (s.jumpWhen (!s.fr.zf) adr x) :=
  checkFields_single _ hx

/-- JZE of a field that names a register completes, and tests ZF = 1 (R173). -/
theorem exec_jze : exec (.jze adr x) s = .next (s.jumpWhen s.fr.zf adr x) :=
  checkFields_single _ hx

/-- JUMP of a field that names a register completes, and tests no flag (R174). -/
theorem exec_jump : exec (.jump adr x) s = .next (s.jumpWhen true adr x) :=
  checkFields_single _ hx

/-- JPL of a field that names a register completes, and tests SF = 0 and ZF = 0 (R175). -/
theorem exec_jpl : exec (.jpl adr x) s = .next (s.jumpWhen (!s.fr.sf && !s.fr.zf) adr x) :=
  checkFields_single _ hx

/-- JOV of a field that names a register completes, and tests OF = 1 (R176). -/
theorem exec_jov : exec (.jov adr x) s = .next (s.jumpWhen s.fr.of adr x) :=
  checkFields_single _ hx

end

/-- Settles O26: each of the six jumps completes by one rule, with its own test of the flags. -/
theorem jumpEffect : Obligations.JumpEffect := by
  intro adr x s hx
  refine ⟨?jmi, ?jnz, ?jze, ?jump, ?jpl, ?jov⟩
  case jmi => exact ⟨_, exec_jmi adr s hx, jumpResult_jumpWhen adr x s Iff.rfl⟩
  case jnz => exact ⟨_, exec_jnz adr s hx, jumpResult_jumpWhen adr x s (Bool.not_eq_true' _).to_iff⟩
  case jze => exact ⟨_, exec_jze adr s hx, jumpResult_jumpWhen adr x s Iff.rfl⟩
  case jump => exact ⟨_, exec_jump adr s hx, jumpResult_jumpWhen adr x s (iff_of_true rfl trivial)⟩
  case jpl => exact ⟨_, exec_jpl adr s hx, jumpResult_jumpWhen adr x s (jplCondition_iff s.fr)⟩
  case jov => exact ⟨_, exec_jov adr s hx, jumpResult_jumpWhen adr x s Iff.rfl⟩

end Sys2Proof.Machine
end

section
/-! PROOFS. The effect of PUSH, POP, CALL and RET (spec R33, R180 to R183). One rule says what a push
does to the whole state; the entry to a subroutine is that push, of the return address. -/

namespace Sys2Proof.Machine

open Sys2Proof.Safety

/-- A push after passing the instruction's words: the word is read back at the new SP, and nothing
but SP, that word and PR is written (R33). -/
theorem pushResult_push (s : State) (n : Nat) (v : Word) :
    PushResult v s ((s.advance n).push v) := by
  have htop : ((s.advance n).push v).load (s.sp - 1) = v :=
    (s.advance n).load_store_same (s.sp - 1) v
  have hmem : SameMemBut (s.sp - 1) s ((s.advance n).push v) := sameMemBut_store s n (s.sp - 1) v
  exact ⟨rfl, htop, hmem, fun _ => rfl, rfl, rfl⟩

/-- Entry to a subroutine or a service pushes the address after the instruction's words; going to the
target then writes PR alone (R182, R207). -/
theorem pushResult_enter (s : State) (n : Nat) (target : Word) :
    PushResult (s.advance n).pr s ((s.advance n).enter target) :=
  pushResult_push s n (s.advance n).pr

section
variable {r x : RegField} (adr : Word) (s : State)

/-- PUSH of a field that names a register completes (R180). -/
theorem exec_push (hx : namesRegister x) :
    exec (.push adr x) s = .next ((s.advance 2).push (s.effAddr adr x)) :=
  checkFields_single _ hx

/-- POP of a field that names a register completes (R181). -/
theorem exec_pop (hr : namesRegister r) :
    exec (.pop r) s = .next ((s.advance 1).dropTop.setReg r s.top) :=
  checkFields_single _ hr

/-- CALL of a field that names a register completes (R182). -/
theorem exec_call (hx : namesRegister x) :
    exec (.call adr x) s = .next ((s.advance 2).enter (s.effAddr adr x)) :=
  checkFields_single _ hx

/-- RET uses no field, so it always completes (R183). -/
theorem exec_ret : exec .ret s = .next s.leave := rfl

end

/-- Settles O27: the pushed word is the effective address, by the rule for a push. -/
theorem pushEffect : Obligations.PushEffect :=
  fun adr x s hx => ⟨_, exec_push adr s hx, rfl, pushResult_push s 2 (s.effAddr adr x)⟩

/-- Settles O28: the register reads back the word at the old SP, which memory keeps. -/
theorem popEffect : Obligations.PopEffect := by
  intro r s hr
  have hreg : ((s.advance 1).dropTop.setReg r s.top).reg r = s.load s.sp :=
    (s.advance 1).dropTop.reg_setReg_same r s.top hr
  have hregs : SameRegsBut r s ((s.advance 1).dropTop.setReg r s.top) :=
    fun f hf => (s.advance 1).dropTop.reg_setReg_ne r f s.top hf
  exact ⟨_, exec_pop s hr, hreg, rfl, rfl, hregs, rfl, fun _ => rfl, rfl⟩

/-- Settles O29: the word pushed is the return address, and the effective address is resolved before
the push. -/
theorem callEffect : Obligations.CallEffect :=
  fun adr x s hx => ⟨_, exec_call adr s hx, rfl, pushResult_enter s 2 (s.effAddr adr x)⟩

/-- Settles O30: the return writes PR and SP only. -/
theorem retEffect : Obligations.RetEffect :=
  fun s => ⟨s.leave, exec_ret s, s.leave_pr, s.leave_sp, s.reg_leave, s.leave_fr, s.load_leave,
    s.leave_traps⟩

end Sys2Proof.Machine
end

section
/-! PROOFS. The supervisor call: its hit, its miss, and that it alone can fault (spec R190, R204,
R207). Every other instruction, past the check of its fields, answers a next state. -/

namespace Sys2Proof.Machine

open Sys2Proof.Safety

section
variable {x : RegField} (adr : Word) (s : State)

/-- SVC of a field that names a register is the trap of its effective address (R190). -/
theorem exec_svc (hx : namesRegister x) :
    exec (.svc adr x) s = (s.advance 2).takeTrap (s.effAddr adr x) :=
  checkFields_single _ hx

/-- SVC of a configured trap number enters the service (R207). -/
theorem exec_svc_hit {a : Word} (hx : namesRegister x)
    (ha : TrapTable.target s.traps (s.effAddr adr x) = some a) :
    exec (.svc adr x) s = .next ((s.advance 2).enter a) :=
  (exec_svc adr s hx).trans ((State.takeTrap_eq_next _ _ _).2 ⟨a, ha, rfl⟩)

/-- SVC of a trap number with no entry is the fatal miss of that number (R204). -/
theorem exec_svc_miss (hx : namesRegister x)
    (hmiss : TrapTable.target s.traps (s.effAddr adr x) = none) :
    exec (.svc adr x) s = .fault (.trapMiss (s.effAddr adr x)) :=
  (exec_svc adr s hx).trans ((State.takeTrap_eq_fault _ _ _).2 ⟨hmiss, rfl⟩)

/-- A fault of SVC is the miss of its effective address, which the trap table lacks (R204). -/
theorem fault_of_exec_svc {e : Fault} (h : exec (.svc adr x) s = .fault e) :
    TrapTable.target s.traps (s.effAddr adr x) = none ∧ e = .trapMiss (s.effAddr adr x) := by
  have htrap : (s.advance 2).takeTrap (s.effAddr adr x) = .fault e :=
    ((checkFields_eq_fault _ _ _).1 h).2
  exact ((s.advance 2).takeTrap_eq_fault _ e).1 htrap

end

/-- An instruction other than SVC, past the check of the fields it uses, answers a next state. -/
theorem exec_eq_checkFields_next (i : Instr) (s : State) (hi : ∀ adr x, i ≠ .svc adr x) :
    ∃ t, exec i s = checkFields i.usedFields (.next t) := by
  cases i
  case svc adr x => exact absurd rfl (hi adr x)
  all_goals exact ⟨_, rfl⟩

/-- No instruction other than SVC faults (R204). -/
theorem exec_ne_fault (i : Instr) (s : State) (e : Fault) (hi : ∀ adr x, i ≠ .svc adr x) :
    exec i s ≠ .fault e := by
  obtain ⟨t, ht⟩ := exec_eq_checkFields_next i s hi
  rw [ht, Ne, checkFields_eq_fault]
  exact fun ⟨_, hnext⟩ => nomatch hnext

/-- Settles O31: the configured service is entered as by a call, from past the words of the SVC. -/
theorem svcHitEffect : Obligations.SvcHitEffect :=
  fun adr _ s a hx ha => ⟨_, exec_svc_hit adr s hx ha, rfl, pushResult_enter s 2 a⟩

/-- Settles O32: the miss is that of the trap itself, and an instruction that faults is an SVC. -/
theorem svcMissFaults : Obligations.SvcMissFaults := by
  refine ⟨fun adr _ s hx hmiss => exec_svc_miss adr s hx hmiss, fun i s n h => ?_⟩
  by_cases hsvc : ∃ adr x, i = .svc adr x
  · obtain ⟨adr, x, rfl⟩ := hsvc
    obtain ⟨hmiss, hn⟩ := fault_of_exec_svc adr s h
    obtain rfl : n = s.effAddr adr x := Fault.trapMiss.inj hn
    exact ⟨adr, x, rfl, rfl, hmiss⟩
  · exact absurd h (exec_ne_fault i s _ fun adr x hi => hsvc ⟨adr, x, hi⟩)

end Sys2Proof.Machine
end

section
/-! PROOFS. The opcode map and the encoder are inverse to each other, ignored bits apart (spec R72, R73,
R80, R91). The whole of decoding is read off one equivalence: a word selects an instruction exactly
when it is the first word of its encoding, on the bits its format uses. -/

namespace Sys2Proof

open Sys2Proof.Safety

/-- The same instruction with other operands: `r` and `x` as a descriptor has them, `adr` as the second
word. -/
def Instr.withOperands (r : RegField) (adr : Word) (x : RegField) : Instr → Instr
  | .nop => .nop
  | .ld .. => .ld r adr x
  | .st .. => .st r adr x
  | .lad .. => .lad r adr x
  | .ldRR .. => .ldRR r x
  | .adda .. => .adda r adr x
  | .suba .. => .suba r adr x
  | .addl .. => .addl r adr x
  | .subl .. => .subl r adr x
  | .addaRR .. => .addaRR r x
  | .subaRR .. => .subaRR r x
  | .addlRR .. => .addlRR r x
  | .sublRR .. => .sublRR r x
  | .and .. => .and r adr x
  | .or .. => .or r adr x
  | .xor .. => .xor r adr x
  | .andRR .. => .andRR r x
  | .orRR .. => .orRR r x
  | .xorRR .. => .xorRR r x
  | .cpa .. => .cpa r adr x
  | .cpl .. => .cpl r adr x
  | .cpaRR .. => .cpaRR r x
  | .cplRR .. => .cplRR r x
  | .sla .. => .sla r adr x
  | .sra .. => .sra r adr x
  | .sll .. => .sll r adr x
  | .srl .. => .srl r adr x
  | .jmi .. => .jmi adr x
  | .jnz .. => .jnz adr x
  | .jze .. => .jze adr x
  | .jump .. => .jump adr x
  | .jpl .. => .jpl adr x
  | .jov .. => .jov adr x
  | .push .. => .push adr x
  | .pop .. => .pop r
  | .call .. => .call adr x
  | .ret => .ret
  | .svc .. => .svc adr x

/-- What a descriptor selects is what its opcode selects on zero operands, with the operands put in
(R80). -/
theorem instrOf_eq_map (d : Descriptor) (adr : Word) :
    instrOf d adr = (instrOf ⟨d.op, 0, 0⟩ 0).map (Instr.withOperands d.r adr d.x) := by
  obtain ⟨op, r, x⟩ := d
  unfold instrOf
  dsimp only
  generalize op.toNat = n
  split <;> rfl

section
variable (i : Instr) (r : RegField) (adr adr' : Word) (x : RegField)

/-- The format is the opcode's, not the operands'. -/
@[simp] theorem Instr.format_withOperands : (i.withOperands r adr x).format = i.format := by
  cases i <;> rfl

/-- The second word is no register field. -/
theorem Instr.usedFields_withOperands :
    (i.withOperands r adr x).usedFields = (i.withOperands r adr' x).usedFields := by
  cases i <;> rfl

/-- A one-word instruction does not hold the second word. -/
theorem Instr.withOperands_of_oneWord (h : i.format.words = 1) :
    i.withOperands r adr x = i.withOperands r adr' x := by
  cases i <;> simp_all [Instr.withOperands, Instr.format, Format.words]

end

/-- Whether an opcode selects an instruction, and of which format, is told by the opcode alone
(R74). -/
theorem map_format_instrOf (d : Descriptor) (adr : Word) :
    (instrOf d adr).map Instr.format = (instrOf ⟨d.op, 0, 0⟩ 0).map Instr.format := by
  rw [instrOf_eq_map, Option.map_map]
  exact congrArg (Option.map · _) (funext fun i => i.format_withOperands _ _ _)

/-- Descriptors of one opcode select instructions of one format. -/
theorem instrOf_of_same_op {d d' : Descriptor} {adr : Word} {i : Instr}
    (h : instrOf d adr = some i) (hop : d'.op = d.op) (adr' : Word) :
    ∃ j, instrOf d' adr' = some j ∧ j.format = i.format := by
  rw [instrOf_eq_map, Option.map_eq_some_iff] at h
  obtain ⟨i₀, hi₀, rfl⟩ := h
  exact ⟨_, by rw [instrOf_eq_map, hop, hi₀, Option.map_some], by simp⟩

/-- With another second word the same opcode selects an instruction with the same register fields, and
the same instruction when it has one word only. -/
theorem instrOf_with_adr {d : Descriptor} {adr : Word} {i : Instr} (h : instrOf d adr = some i)
    (adr' : Word) : ∃ j, instrOf d adr' = some j ∧ j.usedFields = i.usedFields ∧
      (i.format.words = 1 → j = i) := by
  rw [instrOf_eq_map, Option.map_eq_some_iff] at h
  obtain ⟨i₀, hi₀, rfl⟩ := h
  refine ⟨_, by rw [instrOf_eq_map, hi₀, Option.map_some], i₀.usedFields_withOperands _ _ _ _, ?_⟩
  exact fun hw => i₀.withOperands_of_oneWord _ _ _ _ (by simpa using hw)

/-- Masking a word masks its fields. -/
theorem firstWord_and (op op' : BitVec 8) (a b a' b' : RegField) :
    firstWord op a b &&& firstWord op' a' b' = firstWord (op &&& op') (a &&& a') (b &&& b') :=
  BitVec.and_append.trans (congrArg (· ++ (b &&& b')) BitVec.and_append)

/-- The first word of a format: the fields it uses, the ignored ones zero (R72, R73). -/
def Format.pack (op : BitVec 8) (r x : RegField) : Format → Word
  | .n => firstWord op 0 0
  | .r => firstWord op r 0
  | .rr | .rax => firstWord op r x
  | .ax => firstWord op 0 x

/-- Clearing the bits a format ignores leaves the opcode and the fields it uses (R73). -/
theorem firstWord_and_usedBits (f : Format) (op : BitVec 8) (r x : RegField) :
    firstWord op r x &&& usedBits f = f.pack op r x := by
  have hmask : usedBits f = f.pack (BitVec.allOnes 8) (BitVec.allOnes 4) (BitVec.allOnes 4) := by
    cases f <;> decide
  rw [hmask]
  cases f <;>
    simp only [Format.pack, firstWord_and, BitVec.and_allOnes, BitVec.and_zero, BitVec.ofNat_eq_ofNat]

/-- No format ignores a bit of the opcode. -/
theorem descriptor_op_and_usedBits (w : Word) (f : Format) :
    (descriptor (w &&& usedBits f)).op = (descriptor w).op := by
  rw [← firstWord_descriptor w, firstWord_and_usedBits]
  cases f <;> simp [Format.pack, descriptor_firstWord]

/-- The opcode of an encoding selects the instruction encoded; a second word that the encoding does not
have is free. -/
theorem instrOf_descriptor_encode {i : Instr} {w : Word} {tail : List Word}
    (h : encode i = w :: tail) (adr : Word) : instrOf (descriptor w) (tail.headD adr) = some i := by
  cases i <;> (cases h; rw [descriptor_firstWord]; rfl)

/-- A word that selects an instruction is the first word of its encoding, ignored bits apart. -/
theorem encode_of_instrOf {w adr : Word} {i : Instr} (h : instrOf (descriptor w) adr = some i) :
    encode i = (w &&& usedBits i.format) :: [adr].take (i.format.words - 1) := by
  rw [← firstWord_descriptor w, firstWord_and_usedBits]
  generalize descriptor w = d at h ⊢
  obtain ⟨op, r, x⟩ := d
  dsimp only
  rw [show op = BitVec.ofNat 8 op.toNat by simp]
  unfold instrOf at h
  split at h <;> cases h
  all_goals
    rename _ = _ => hop
    rw [hop]
    rfl

/-- Every instruction has a first word. -/
theorem encode_eq_cons (i : Instr) : ∃ w tail, encode i = w :: tail := by
  cases i <;> exact ⟨_, _, rfl⟩

/-- No two instructions have one encoding. -/
theorem encode_injective {i j : Instr} (h : encode i = encode j) : i = j := by
  obtain ⟨w, tail, hj⟩ := encode_eq_cons j
  have hi := instrOf_descriptor_encode (h.trans hj) 0
  exact Option.some.inj (hi.symm.trans (instrOf_descriptor_encode hj 0))

/-- A word selects an instruction exactly when, ignored bits apart, it is the first word of its
encoding (R73, R80, R91). -/
theorem instrOf_eq_some_iff (w adr : Word) (i : Instr) :
    instrOf (descriptor w) adr = some i ↔
      encode i = (w &&& usedBits i.format) :: [adr].take (i.format.words - 1) := by
  refine ⟨encode_of_instrOf, fun h => ?_⟩
  have hadr : ([adr].take (i.format.words - 1)).headD adr = adr := by cases i.format <;> rfl
  have hmasked : instrOf (descriptor (w &&& usedBits i.format)) adr = some i := by
    have hi := instrOf_descriptor_encode h adr
    rwa [hadr] at hi
  obtain ⟨j, hj, hformat⟩ :=
    instrOf_of_same_op hmasked (descriptor_op_and_usedBits w i.format).symm adr
  have henc : encode j = encode i := by rw [h, encode_of_instrOf hj, hformat]
  rwa [encode_injective henc] at hj

/-- Words that agree on the bits its format uses select one instruction. -/
theorem instrOf_of_same_usedBits {w w' adr : Word} {i : Instr}
    (h : instrOf (descriptor w) adr = some i)
    (hw : w' &&& usedBits i.format = w &&& usedBits i.format) :
    instrOf (descriptor w') adr = some i := by
  rw [instrOf_eq_some_iff, hw, ← instrOf_eq_some_iff, h]

/-- The encoding of an instruction, whatever words follow, selects it. -/
theorem instrOf_encode_append (i : Instr) (rest : List Word) :
    ∃ w tail, encode i = w :: tail ∧ instrOf (descriptor w) ((tail ++ rest).headD 0) = some i := by
  obtain ⟨w, tail, h⟩ := encode_eq_cons i
  have hhead : (tail ++ rest).headD 0 = tail.headD (rest.headD 0) := by cases tail <;> rfl
  exact ⟨w, tail, h, hhead ▸ instrOf_descriptor_encode h (rest.headD 0)⟩

/-- An encoding has the words of its format (R72). -/
theorem encode_length (i : Instr) : (encode i).length = i.format.words := by
  cases i <;> rfl

/-- The opcode is the high byte of the first word (R71). -/
theorem toNat_descriptor_op (w : Word) : (descriptor w).op.toNat = w.toNat / 256 := by
  have hw := w.isLt
  simp only [descriptor, BitVec.extractLsb'_toNat, Nat.shiftRight_eq_div_pow]
  omega

/-- The opcodes that select nothing are those in the listed ranges: all 256 looked at (R81, R84). -/
theorem instrOf_zero_eq_none_iff : ∀ op : BitVec 8, instrOf ⟨op, 0, 0⟩ 0 = none ↔
    ∃ p ∈ illegalOpRanges, p.1 ≤ op.toNat ∧ op.toNat ≤ p.2 := by
  decide

/-- A word selects nothing exactly when its opcode byte is listed as illegal (R84). -/
theorem instrOf_eq_none_iff (w adr : Word) : instrOf (descriptor w) adr = none ↔ illegalOp w := by
  rw [instrOf_eq_map, Option.map_eq_none_iff, instrOf_zero_eq_none_iff, toNat_descriptor_op]

end Sys2Proof
end

section
/-! PROOFS. Decoding and encoding: what the decoder answers for a sequence of words, for illegal and
reserved encodings, and which bits and words it looks at (spec R72 to R74, R81, R82, R91). -/

namespace Sys2Proof

open Sys2Proof.Safety

/-- A rejected first word rejects the sequence. -/
theorem decode_cons_of_reject {w : Word} {tail : List Word} {e : WordReject}
    (h : decodeWords w (tail.headD 0) = .error e) : decode (w :: tail) = .error (.word e) := by
  rw [decode, h]

/-- A sequence decodes when its first word does and the words of the instruction are all there; the
rest is what follows them. -/
theorem decode_cons_eq_ok (w : Word) (tail rest : List Word) (i : Instr) :
    decode (w :: tail) = .ok (i, rest) ↔
      decodeWords w (tail.headD 0) = .ok i ∧ i.format.words ≤ tail.length + 1 ∧
        rest = tail.drop (i.format.words - 1) := by
  cases h : decodeWords w (tail.headD 0) with
  | error e =>
    rw [decode_cons_of_reject h]
    exact ⟨nofun, nofun⟩
  | ok j =>
    rw [decode, h]
    dsimp only
    by_cases hlen : tail.length + 1 < j.format.words
    · rw [if_pos hlen]
      refine ⟨nofun, fun ⟨hj, hle, _⟩ => ?_⟩
      obtain rfl := Except.ok.inj hj
      exact absurd hlen (Nat.not_lt.2 hle)
    · rw [if_neg hlen]
      constructor
      · rintro ⟨⟩
        exact ⟨rfl, Nat.le_of_not_lt hlen, rfl⟩
      · rintro ⟨⟨⟩, -, rfl⟩
        rfl

/-- A word that selects an instruction with a reserved field is rejected by that field, whatever word
follows it (R82). -/
theorem decodeWords_reserved_of_instrOf {w adr : Word} {i : Instr} {f : RegField}
    (h : instrOf (descriptor w) adr = some i) (hf : firstReserved i.usedFields = some f)
    (adr' : Word) : decodeWords w adr' = .error (.reservedField f) := by
  obtain ⟨j, hj, hused, -⟩ := instrOf_with_adr h adr'
  exact (decodeWords_eq_reserved _ _ _).2 ⟨j, hj, hused ▸ hf⟩

/-- The length is that of the format the opcode selects (R74). -/
theorem instrLength_eq (w : Word) :
    instrLength w = ((instrOf ⟨(descriptor w).op, 0, 0⟩ 0).map Instr.format).map Format.words := by
  rw [← map_format_instrOf _ 0, Option.map_map]
  rfl

/-- Settles O1: an encoding selects its instruction, and its length says what is left over. -/
theorem decodeEncode : Obligations.DecodeEncode := by
  intro i rest hwf
  obtain ⟨w, tail, henc, hi⟩ := instrOf_encode_append i rest
  have hlen : tail.length + 1 = i.format.words := by rw [← encode_length i, henc, List.length_cons]
  rw [henc, List.cons_append, decode_cons_eq_ok]
  refine ⟨(decodeWords_eq_ok _ _ _).2 ⟨hi, hwf⟩, ?_, ?_⟩
  · rw [List.length_append]
    omega
  · exact (List.drop_left' (by omega)).symm

/-- Settles O2: the instruction selected encodes to the masked word and the words that are there. -/
theorem decodeSound : Obligations.DecodeSound := by
  intro ws i rest h
  cases ws with
  | nil => cases h
  | cons w tail =>
    obtain ⟨hdec, hlen, hrest⟩ := (decode_cons_eq_ok w tail rest i).1 h
    obtain ⟨hi, hwf⟩ := (decodeWords_eq_ok _ _ _).1 hdec
    have htake : [tail.headD 0].take (i.format.words - 1) = tail.take (i.format.words - 1) := by
      cases tail <;> cases hf : i.format <;> simp_all [Format.words]
    exact ⟨hwf, w, tail, rfl, htake ▸ encode_of_instrOf hi, hrest⟩

/-- Settles O3: a word is illegal when its opcode selects nothing. -/
theorem illegalOpcodes : Obligations.IllegalOpcodes := by
  intro w adr
  rw [decodeWords_eq_illegal, instrOf_eq_none_iff, and_iff_left rfl]

/-- Settles O4: an encoding selects its instruction, whose reserved field the decoder finds. -/
theorem reservedFieldsRejected : Obligations.ReservedFieldsRejected := by
  intro i f rest hf
  obtain ⟨w, tail, henc, hi⟩ := instrOf_encode_append i rest
  rw [henc, List.cons_append]
  exact decode_cons_of_reject ((decodeWords_eq_reserved _ _ _).2 ⟨i, hi, hf⟩)

/-- Settles O5: what a word selects is told by the bits the format uses. -/
theorem ignoredBits : Obligations.IgnoredBits := by
  refine ⟨?decoded, ?reserved, ?illegal⟩
  case decoded =>
    intro w w' adr i h hw
    obtain ⟨hi, hwf⟩ := (decodeWords_eq_ok _ _ _).1 h
    exact (decodeWords_eq_ok _ _ _).2 ⟨instrOf_of_same_usedBits hi hw, hwf⟩
  case reserved =>
    intro w adr f h
    obtain ⟨i, hi, hf⟩ := (decodeWords_eq_reserved _ _ _).1 h
    exact ⟨i, hi, fun w' adr' hw =>
      decodeWords_reserved_of_instrOf (instrOf_of_same_usedBits hi hw) hf adr'⟩
  case illegal =>
    intro w w' adr adr' h hop
    rw [illegalOpcodes] at h ⊢
    rwa [illegalOp, hop]

/-- Settles O6: the format, and so the length, comes from the opcode alone. -/
theorem lengthFromOpcode : Obligations.LengthFromOpcode := by
  refine ⟨?sameOpcode, ?decoded, ?secondWord, ?illegal⟩
  case sameOpcode =>
    intro w w' hop
    have hop' : (descriptor w).op = (descriptor w').op :=
      BitVec.eq_of_toNat_eq (by rw [toNat_descriptor_op, toNat_descriptor_op, hop])
    rw [instrLength_eq, instrLength_eq, hop']
  case decoded =>
    intro w adr i h
    obtain ⟨hi, -⟩ := (decodeWords_eq_ok _ _ _).1 h
    rw [instrLength_eq, ← map_format_instrOf _ adr, hi]
    rfl
  case secondWord =>
    intro w adr adr' i h
    obtain ⟨hi, hwf⟩ := (decodeWords_eq_ok _ _ _).1 h
    obtain ⟨j, hj, hused, -⟩ := instrOf_with_adr hi adr'
    exact ⟨j, (decodeWords_eq_ok _ _ _).2 ⟨hj, hused ▸ hwf⟩⟩
  case illegal =>
    intro w hw
    rw [instrLength, (instrOf_eq_none_iff w 0).2 hw, Option.map_none]

/-- Settles O7: the five worked words, evaluated. -/
theorem workedDecodes : Obligations.WorkedDecodes := by
  unfold Obligations.WorkedDecodes
  decide

end Sys2Proof
end

section
/-! PROOFS. Every execution in one form: the check of the register fields, the miss of a trap, and
otherwise the state that the spec's tables give field by field (spec R24, R34, R36, R60, R220). The
frames and the reads of all 38 instructions are read off this form. -/

namespace Sys2Proof.Machine

open Sys2Proof.Safety

/-- The word an instruction puts in the register it writes, and the flags it sets. The word of an
instruction that writes no register is not used, nor are the flags of one that writes no flag. -/
def resultOf (i : Instr) (s : State) : Word × Flags :=
  match i with
  | .ld _ adr x => clearing (s.effVal adr x)
  | .lad _ adr x => clearing (s.effAddr adr x)
  | .ldRR _ r2 => clearing (s.reg r2)
  | .pop _ => clearing s.top
  | .adda r adr x => addA (s.reg r) (s.effVal adr x)
  | .suba r adr x => subA (s.reg r) (s.effVal adr x)
  | .addl r adr x => addL (s.reg r) (s.effVal adr x)
  | .subl r adr x => subL (s.reg r) (s.effVal adr x)
  | .addaRR r1 r2 => addA (s.reg r1) (s.reg r2)
  | .subaRR r1 r2 => subA (s.reg r1) (s.reg r2)
  | .addlRR r1 r2 => addL (s.reg r1) (s.reg r2)
  | .sublRR r1 r2 => subL (s.reg r1) (s.reg r2)
  | .and r adr x => logicAnd (s.reg r) (s.effVal adr x)
  | .or r adr x => logicOr (s.reg r) (s.effVal adr x)
  | .xor r adr x => logicXor (s.reg r) (s.effVal adr x)
  | .andRR r1 r2 => logicAnd (s.reg r1) (s.reg r2)
  | .orRR r1 r2 => logicOr (s.reg r1) (s.reg r2)
  | .xorRR r1 r2 => logicXor (s.reg r1) (s.reg r2)
  | .cpa r adr x => (0, cmpA (s.reg r) (s.effVal adr x))
  | .cpl r adr x => (0, cmpL (s.reg r) (s.effVal adr x))
  | .cpaRR r1 r2 => (0, cmpA (s.reg r1) (s.reg r2))
  | .cplRR r1 r2 => (0, cmpL (s.reg r1) (s.reg r2))
  | .sla r adr x => shiftLeftA (s.reg r) (s.shiftCount adr x)
  | .sra r adr x => shiftRightA (s.reg r) (s.shiftCount adr x)
  | .sll r adr x => shiftLeftL (s.reg r) (s.shiftCount adr x)
  | .srl r adr x => shiftRightL (s.reg r) (s.shiftCount adr x)
  | .nop | .ret | .st .. | .jmi .. | .jnz .. | .jze .. | .jump .. | .jpl .. | .jov ..
  | .push .. | .call .. | .svc .. => clearing 0

/-- The state an instruction leaves when it completes, by the spec's tables. -/
def completed (i : Instr) (s : State) : State where
  gr := (regWritten i).elim s.gr fun r => s.gr.setIfInBounds r.toNat (resultOf i s).1
  pr := nextPr i s
  sp := spAfter i s
  fr := bif writesFlags i then (resultOf i s).2 else s.fr
  mem := (stored i s).elim s.mem fun c => Memory.write s.mem c.1 c.2
  traps := s.traps

/-- A jump on a flag test that says `p` writes PR alone (R170). -/
theorem State.jumpWhen_eq (s : State) (adr : Word) (x : RegField) {cond : Bool} {p : Prop}
    [Decidable p] (hcond : cond = true ↔ p) :
    s.jumpWhen cond adr x = { s with pr := if p then s.effAddr adr x else s.pr + 2 } := by
  by_cases hp : p
  · rw [s.jumpWhen_taken adr x (hcond.2 hp), if_pos hp]
    rfl
  · rw [s.jumpWhen_notTaken adr x (mt hcond.1 hp), if_neg hp]
    rfl

/-- The trap of an SVC: the state of the tables on a hit, the miss otherwise (R190). -/
theorem takeTrap_eq_completed (s : State) (adr : Word) (x : RegField) :
    (s.advance 2).takeTrap (s.effAddr adr x) =
      (missedTrap (.svc adr x) s).elim (.next (completed (.svc adr x) s)) raiseTrapMiss := by
  cases h : TrapTable.target s.traps (s.effAddr adr x) with
  | some a =>
    have hmiss : missedTrap (.svc adr x) s = none := by simp [missedTrap, h]
    have henter : completed (.svc adr x) s = (s.advance 2).enter a := by
      simp only [completed, nextPr, h]
      rfl
    rw [hmiss, henter]
    exact (State.takeTrap_eq_next _ _ _).2 ⟨a, h, rfl⟩
  | none =>
    have hmiss : missedTrap (.svc adr x) s = some (s.effAddr adr x) := by simp [missedTrap, h]
    rw [hmiss]
    exact (State.takeTrap_eq_fault _ _ _).2 ⟨h, rfl⟩

/-- Every execution: the check of the fields, then the miss of a trap or the state of the tables. -/
theorem exec_eq_completed (i : Instr) (s : State) :
    exec i s = checkFields i.usedFields
      ((missedTrap i s).elim (.next (completed i s)) raiseTrapMiss) := by
  have hjump {adr x cond p} [Decidable p] (hcond : cond = true ↔ p) :=
    congrArg (fun t => checkFields [x] (.next t)) (s.jumpWhen_eq adr x hcond)
  cases i
  case jmi => exact hjump Iff.rfl
  case jnz => exact hjump (Bool.not_eq_true' _).to_iff
  case jze => exact hjump Iff.rfl
  case jpl => exact hjump (jplCondition_iff s.fr)
  case jov => exact hjump Iff.rfl
  case svc adr x => exact congrArg (checkFields [x]) (takeTrap_eq_completed s adr x)
  all_goals rfl

/-- An execution completes when no field is reserved and no trap is missed, in the state of the
tables. -/
theorem exec_eq_next_iff (i : Instr) (s t : State) :
    exec i s = .next t ↔ i.WellFormed ∧ missedTrap i s = none ∧ t = completed i s := by
  rw [exec_eq_completed, checkFields_eq_next, ← firstReserved_eq_none]
  cases missedTrap i s <;> simp [raiseTrapMiss, eq_comm]

/-- An execution faults when no field is reserved and a trap is missed, by that trap (R204). -/
theorem exec_eq_fault_iff (i : Instr) (s : State) (e : Fault) :
    exec i s = .fault e ↔ i.WellFormed ∧ ∃ n, missedTrap i s = some n ∧ e = .trapMiss n := by
  rw [exec_eq_completed, checkFields_eq_fault, ← firstReserved_eq_none]
  cases missedTrap i s <;> simp [raiseTrapMiss, eq_comm]

/-- The stored word is read back at its address. -/
theorem load_completed_of_stored {i : Instr} {s : State} {a v : Word}
    (h : stored i s = some (a, v)) : (completed i s).load a = v := by
  simp [State.load, completed, h]

/-- An address that is not stored to keeps its word. -/
theorem load_completed_of_not_stored {i : Instr} {s : State} {b : Word}
    (h : ∀ v, stored i s ≠ some (b, v)) : (completed i s).load b = s.load b := by
  cases hst : stored i s with
  | none => simp [State.load, completed, hst]
  | some c =>
    have hne : b ≠ c.1 := fun e => h c.2 (by rw [hst, e])
    simp only [State.load, completed, hst]
    exact Memory.read_write_ne s.mem c.1 b c.2 hne

/-- Settles O11: the check of the fields comes before everything else. -/
theorem reservedInstrRefused : Obligations.ReservedInstrRefused := by
  intro i s f hf
  rw [exec_eq_completed, checkFields_reserved _ _ f hf]

/-- Settles O33: the only register written is the one the table gives. -/
theorem registerWriteTable : Obligations.RegisterWriteTable := by
  intro i s t h f hf
  obtain ⟨-, -, rfl⟩ := (exec_eq_next_iff i s t).1 h
  cases hw : regWritten i with
  | none => simp [State.reg, completed, hw]
  | some r =>
    have hne : f ≠ r := fun e => hf (by rw [hw, e])
    simp only [State.reg, completed, hw]
    exact s.reg_setReg_ne r f _ hne

/-- Settles O36: SP is the one the table gives. -/
theorem stackPointerTable : Obligations.StackPointerTable := by
  intro i s t h
  obtain ⟨-, -, rfl⟩ := (exec_eq_next_iff i s t).1 h
  rfl

/-- Settles O37: memory is written by the one store the table gives, if it gives one. -/
theorem memoryWriteTable : Obligations.MemoryWriteTable := by
  intro i s t h
  obtain ⟨-, -, rfl⟩ := (exec_eq_next_iff i s t).1 h
  constructor
  · intro a v hst
    refine ⟨load_completed_of_stored hst, fun b hb => load_completed_of_not_stored fun w hw => ?_⟩
    exact hb (congrArg Prod.fst (Option.some.inj (hw.symm.trans hst)))
  · exact fun hst a => load_completed_of_not_stored fun v hv => nomatch hst.symm.trans hv

/-- Settles O39: PR is the one the table gives. -/
theorem controlFlowTable : Obligations.ControlFlowTable := by
  intro i s t h
  obtain ⟨-, -, rfl⟩ := (exec_eq_next_iff i s t).1 h
  rfl

end Sys2Proof.Machine
end

section
/-! PROOFS. What an execution depends on (spec R24, R37, R40, R60). Two states that agree on what an
instruction reads give it the same result, target, store and trap; each of the noninterference
statements changes one part of the state that the instruction does not read. -/

namespace Sys2Proof.Machine

open Sys2Proof.Safety

/-- The two states agree on all that the instruction reads: PR, SP, the registers of the reads column,
the flags for a conditional jump, the trap table for an SVC, and memory at its read accesses. -/
structure SameInputs (i : Instr) (s s' : State) : Prop where
  pr : s'.pr = s.pr := by rfl
  sp : s'.sp = s.sp := by rfl
  regs : ∀ f ∈ regsRead i, s'.reg f = s.reg f := by exact fun _ _ => rfl
  flags : readsFlags i = true → s'.fr = s.fr := by exact fun _ => rfl
  traps : (∃ adr x, i = .svc adr x) → s'.traps = s.traps := by exact fun _ => rfl
  mem : ∀ a, .read a ∈ instrAccesses i s → s'.load a = s.load a := by exact fun _ _ => rfl

/-- Agreeing on the index register is resolving every address alike (R76). -/
theorem State.index_agrees_iff (s s' : State) (x : RegField) :
    (∀ f ∈ indexReads x, s'.reg f = s.reg f) ↔ ∀ adr, s'.effAddr adr x = s.effAddr adr x := by
  by_cases hx : x = 0
  · rw [hx]
    exact iff_of_true (fun f hf => nomatch hf) fun adr => rfl
  · have hreads : indexReads x = [x] := if_neg hx
    have heff (u : State) (adr : Word) : u.effAddr adr x = adr + u.reg x := u.effAddr_index adr x hx
    simp [hreads, heff]

section
variable {i : Instr} {s s' : State} (h : SameInputs i s s')
include h

/-- The same inputs give the same result and flags. -/
theorem SameInputs.result : resultOf i s' = resultOf i s := by
  obtain ⟨hpr, hsp, hregs, -, -, hmem⟩ := h
  cases i <;> simp_all [regsRead, instrAccesses, resultOf, State.effVal, State.shiftCount, State.top,
    State.index_agrees_iff]

/-- The same inputs give the same target. -/
theorem SameInputs.nextPr : nextPr i s' = nextPr i s := by
  obtain ⟨hpr, hsp, hregs, hflags, htraps, hmem⟩ := h
  cases i <;> simp_all [regsRead, instrAccesses, Safety.nextPr, readsFlags, State.index_agrees_iff]

/-- The same inputs give the same SP. -/
theorem SameInputs.spAfter : spAfter i s' = spAfter i s := by
  have hsp := h.sp
  cases i <;> simp [Safety.spAfter, hsp]

/-- The same inputs give the same store. -/
theorem SameInputs.stored : stored i s' = stored i s := by
  obtain ⟨hpr, hsp, hregs, -, -, -⟩ := h
  cases i <;> simp_all [regsRead, Safety.stored, State.index_agrees_iff]

/-- The same inputs miss the same trap, or none. -/
theorem SameInputs.missedTrap : missedTrap i s' = missedTrap i s := by
  obtain ⟨-, -, hregs, -, htraps, -⟩ := h
  cases i
  case svc adr x => simp_all [regsRead, Safety.missedTrap, State.index_agrees_iff]
  all_goals rfl

/-- The same inputs leave the same state, but for what each state kept of its own. -/
theorem SameInputs.completed : completed i s' =
    { completed i s with
      gr := (regWritten i).elim s'.gr fun r => s'.gr.setIfInBounds r.toNat (resultOf i s).1
      fr := bif writesFlags i then (resultOf i s).2 else s'.fr
      mem := (Safety.stored i s).elim s'.mem fun c => Memory.write s'.mem c.1 c.2
      traps := s'.traps } := by
  simp only [Machine.completed, h.result, h.nextPr, h.spAfter, h.stored]

end

/-- The outcome with a change made to the next state, if it is one. -/
def mapNext (g : State → State) : Outcome → Outcome
  | .next t => .next (g t)
  | .fault e => .fault e
  | .refused e => .refused e

/-- The same inputs give the same outcome, up to how the next states differ. -/
theorem exec_of_sameInputs {i : Instr} {s s' : State} (h : SameInputs i s s') (g : State → State)
    (hg : completed i s' = g (completed i s)) : exec i s' = mapNext g (exec i s) := by
  rw [exec_eq_completed, exec_eq_completed, h.missedTrap, hg]
  unfold checkFields
  cases firstReserved i.usedFields
  · cases missedTrap i s <;> rfl
  · rfl

/-- Two registers are written in either order, and of two writes to one the last one counts. -/
theorem setReg_setReg (s : State) (f r : RegField) (v w : Word) :
    (s.setReg f v).setReg r w = if r = f then s.setReg r w else (s.setReg r w).setReg f v := by
  by_cases hr : r = f
  · rw [if_pos hr, hr]
    simp [State.setReg]
  · have hne : f.toNat ≠ r.toNat := fun e => hr (BitVec.eq_of_toNat_eq e.symm)
    rw [if_neg hr]
    exact congrArg (fun gr => { s with gr := gr }) (Vector.setIfInBound_comm v w hne)

/-- Settles O34: a register outside the reads column is no input, and is kept unless overwritten. -/
theorem registerReadTable : Obligations.RegisterReadTable := by
  intro i s f v hf
  have hsame : SameInputs i s (s.setReg f v) :=
    { regs := fun g hg => s.reg_setReg_ne f g v fun e => hf (e ▸ hg) }
  refine (exec_of_sameInputs hsame (fun t => if regWritten i = some f then t else t.setReg f v)
    ?_).trans (by cases exec i s <;> rfl)
  rw [hsame.completed]
  cases hw : regWritten i with
  | none => simp [completed, State.setReg, hw]
  | some r =>
    have hgr := congrArg State.gr (setReg_setReg s f r v (resultOf i s).1)
    by_cases hr : r = f <;> simp_all [completed, State.setReg]

/-- Settles O35: the flags are an input of the conditional jumps only, and are kept unless written. -/
theorem flagTables : Obligations.FlagTables := by
  constructor
  · intro i s t h hw
    obtain ⟨-, -, rfl⟩ := (exec_eq_next_iff i s t).1 h
    simp [completed, hw]
  · intro i s f hf
    have hsame : SameInputs i s (s.setFlags f) :=
      { flags := fun hr => absurd (hf.symm.trans hr) Bool.false_ne_true }
    refine (exec_of_sameInputs hsame (fun t => if writesFlags i = true then t else t.setFlags f)
      ?_).trans (by cases exec i s <;> rfl)
    rw [hsame.completed]
    cases hw : writesFlags i <;> simp [completed, State.setFlags, hw]

end Sys2Proof.Machine
end

section
/-! PROOFS. One step: the fetch, then the execution of what was fetched or the rejection of the word
(spec R82, R86, R200 to R206). -/

namespace Sys2Proof.Machine

open Sys2Proof.Safety

/-- A step whose fetch gives an instruction is its execution (R86). -/
theorem step_of_fetch {s : State} {i : Instr} (h : fetchInstr s = .ok i) : step s = exec i s := by
  rw [step, h]

/-- A step whose fetch is rejected ends there. -/
theorem step_of_reject {s : State} {e : WordReject} (h : fetchInstr s = .error e) :
    step s = rejected e := by
  rw [step, h]

/-- A step completes as the execution of a fetched instruction, and in no other way. -/
theorem step_eq_next_iff (s t : State) :
    step s = .next t ↔ ∃ i, fetchInstr s = .ok i ∧ exec i s = .next t := by
  cases h : fetchInstr s with
  | ok i => simp [step_of_fetch h]
  | error e =>
    rw [step_of_reject h]
    cases e <;> simp [rejected, raiseIllegal]

/-- The state after a step that completes is that of the tables for the fetched instruction. -/
theorem completed_of_step {s t : State} (h : step s = .next t) :
    ∃ i, fetchInstr s = .ok i ∧ missedTrap i s = none ∧ t = completed i s := by
  obtain ⟨i, hfetch, hexec⟩ := (step_eq_next_iff s t).1 h
  obtain ⟨-, hmiss, ht⟩ := (exec_eq_next_iff i s t).1 hexec
  exact ⟨i, hfetch, hmiss, ht⟩

/-- A fetch is illegal when the opcode byte at PR is listed as illegal, with that word (R202). -/
theorem fetchInstr_eq_illegal (s : State) (w : Word) :
    fetchInstr s = .error (.illegalInstruction w) ↔ illegalOp (s.load s.pr) ∧ w = s.load s.pr := by
  rw [fetchInstr, decodeWords_eq_illegal, instrOf_eq_none_iff]

/-- A fetch that is not illegal found no illegal opcode byte. -/
theorem not_illegalOp_of_fetch {s : State} (h : ∀ w, fetchInstr s ≠ .error (.illegalInstruction w)) :
    ¬ illegalOp (s.load s.pr) :=
  fun hop => h _ ((fetchInstr_eq_illegal s _).2 ⟨hop, rfl⟩)

/-- Settles O8: the words at PR are those the fetch decodes. -/
theorem stepRunsDecoded : Obligations.StepRunsDecoded := by
  intro s i rest h
  obtain ⟨hdec, -, -⟩ := (decode_cons_eq_ok _ _ _ _).1 h
  exact ⟨((decodeWords_eq_ok _ _ _).1 hdec).2, step_of_fetch hdec⟩

/-- Settles O9: the fetch is illegal, and so the step. -/
theorem illegalStepFaults : Obligations.IllegalStepFaults :=
  fun s h => step_of_reject ((fetchInstr_eq_illegal s _).2 ⟨h, rfl⟩)

/-- Settles O10: the word at PR selects the instruction that its masked word encodes. -/
theorem reservedStepRefused : Obligations.ReservedStepRefused := by
  intro s i f hf hw
  obtain ⟨w, tail, henc⟩ := encode_eq_cons i
  obtain rfl : w = s.load s.pr &&& usedBits i.format := by simpa [henc] using hw
  have hmasked := instrOf_descriptor_encode henc 0
  have hi : instrOf (descriptor (s.load s.pr)) (tail.headD 0) = some i :=
    instrOf_of_same_usedBits hmasked (by rw [BitVec.and_assoc, BitVec.and_self])
  exact step_of_reject (decodeWords_reserved_of_instrOf hi hf _)

/-- Settles O12: the host's step hands back the state it was given when the step faults. -/
theorem fatalStepCommitsNothing : Obligations.FatalStepCommitsNothing := by
  intro s
  refine ⟨?illegal, ?miss, ?next⟩
  case illegal => exact fun w h => ⟨_, s, by rw [hostStep, h], rfl, rfl, rfl⟩
  case miss => exact fun n h => ⟨_, s, by rw [hostStep, h], rfl, rfl, rfl⟩
  case next => exact fun t h => ⟨_, by rw [hostStep, h], rfl⟩

/-- Settles O13: a fetched instruction faults by its missed trap only, a rejected word when it is
illegal only. -/
theorem onlyTwoFatalConditions : Obligations.OnlyTwoFatalConditions := by
  intro s e
  cases h : fetchInstr s with
  | ok i =>
    have hlegal : ¬ illegalOp (s.load s.pr) := not_illegalOp_of_fetch (by simp [h])
    rw [step_of_fetch h, exec_eq_fault_iff, and_iff_right (fetchInstr_wellFormed s i h)]
    simp [hlegal]
  | error r =>
    rw [step_of_reject h]
    cases r with
    | illegalInstruction w =>
      obtain ⟨hop, rfl⟩ := (fetchInstr_eq_illegal s w).1 h
      simp [rejected, raiseIllegal, hop, eq_comm]
    | reservedField f =>
      have hlegal : ¬ illegalOp (s.load s.pr) := not_illegalOp_of_fetch (by simp [h])
      simp [rejected, hlegal]

/-- Settles O14: a fetched instruction uses no reserved field, so only a missed trap could stop it. -/
theorem everyOtherStepCompletes : Obligations.EveryOtherStepCompletes := by
  intro s i h hmiss
  have hexec := (exec_eq_next_iff i s _).2 ⟨fetchInstr_wellFormed s i h, hmiss, rfl⟩
  exact ⟨_, (step_of_fetch h).trans hexec⟩

/-- Settles O38: the tables keep the trap table, and it is an input of SVC only. -/
theorem trapTableRole : Obligations.TrapTableRole := by
  constructor
  · intro s t h
    obtain ⟨i, -, -, rfl⟩ := completed_of_step h
    rfl
  · intro i s tt hi
    have hsame : SameInputs i s { s with traps := tt } :=
      { traps := fun ⟨adr, x, hsvc⟩ => absurd hsvc (hi adr x) }
    exact (exec_of_sameInputs hsame (fun t => { t with traps := tt }) hsame.completed).trans
      (by cases exec i s <;> rfl)

end Sys2Proof.Machine
end

section
/-! PROOFS. The canonical form of memory and trap table: every step and every host operation keeps it,
and it makes equal memories equal data (spec R50, R240; log 1, log 7). -/

namespace Sys2Proof.Machine

open Sys2Proof.Safety

/-- A store keeps the canonical form. -/
theorem canonical_store {s : State} (h : Canonical s) (a v : Word) : Canonical (s.store a v) :=
  ⟨Memory.write_wf s.mem a v h.1, h.2⟩

/-- The state of the tables is canonical, because at most one word is stored. -/
theorem canonical_completed {s : State} (i : Instr) (h : Canonical s) :
    Canonical (completed i s) := by
  obtain ⟨hmem, htraps⟩ := h
  refine ⟨?_, htraps⟩
  cases hst : stored i s with
  | none => simpa only [completed, hst, Option.elim] using hmem
  | some c => simpa only [completed, hst, Option.elim] using Memory.write_wf s.mem c.1 c.2 hmem

/-- Loading an image keeps the canonical form. -/
theorem canonical_hostLoadImage {s : State} (h : Canonical s) (o : Word) (ws : List Word) :
    Canonical (hostLoadImage o ws s) := by
  induction ws generalizing o s with
  | nil => exact h
  | cons w ws ih => exact ih (canonical_store h o w) (o + 1)

/-- Settles O40: after reset both tables are empty. -/
theorem resetInvariant : Obligations.ResetInvariant :=
  ⟨Memory.reset_wf, by decide⟩

/-- Settles O41: a step that completes leaves the state of the tables. -/
theorem stepKeepsInvariant : Obligations.StepKeepsInvariant := by
  intro s t hs h
  obtain ⟨i, -, -, rfl⟩ := completed_of_step h
  exact canonical_completed i hs

/-- Settles O42: the host writes memory by stores, and the trap table by `TrapTable.set`. -/
theorem hostKeepsInvariant : Obligations.HostKeepsInvariant := by
  intro s h
  refine ⟨?setPc, ?setSp, ?callInto, ?poke, ?image, ?trap, ?setReg⟩
  case setPc => exact fun v => h
  case setSp => exact fun v => h
  case callInto => exact fun a => canonical_store h (s.sp - 1) s.pr
  case poke => exact fun a v => canonical_store h (trunc16 a) (trunc16 v)
  case image => exact canonical_hostLoadImage h
  case trap => exact fun n a => ⟨h.1, TrapTable.set_wf s.traps (trunc16 n) (trunc16 a) h.2⟩
  case setReg =>
    intro i v t ht
    unfold hostSetRegister at ht
    split at ht <;> cases ht
    exact h

/-- In a sorted table the entry under a key is the only one. -/
theorem Cells.lookup_eq_some_iff {m : Cells} (h : Cells.sorted m) (k : Nat) (v : Word) :
    Cells.lookup m k = some v ↔ (k, v) ∈ m := by
  induction m with
  | nil => simp [Cells.lookup]
  | cons c m ih =>
    obtain ⟨hc, hm⟩ := List.pairwise_cons.1 h
    by_cases hk : c.1 = k
    · have hnot : (k, v) ∉ m := fun hmem => (hc _ hmem).ne hk
      simp [Cells.lookup, hk, hnot, Prod.ext_iff, eq_comm]
    · simp [Cells.lookup, hk, ih hm, Prod.ext_iff, Ne.symm hk]

/-- A sorted table lists nothing twice. -/
theorem Cells.nodup_of_sorted {m : Cells} (h : Cells.sorted m) : m.Nodup :=
  h.imp fun {_ _} hlt e => hlt.ne (congrArg Prod.fst e)

/-- Sorted tables with the same entries are equal. -/
theorem Cells.eq_of_mem_iff {m m' : Cells} (h : Cells.sorted m) (h' : Cells.sorted m')
    (hmem : ∀ c, c ∈ m ↔ c ∈ m') : m = m' := by
  have hperm : m.Perm m' :=
    (List.perm_ext_iff_of_nodup (Cells.nodup_of_sorted h) (Cells.nodup_of_sorted h')).2 hmem
  exact hperm.eq_of_pairwise (fun a b _ _ hab hba => absurd hab hba.asymm) h h'

/-- The entries of a canonical memory are what its reads tell apart from an unwritten word. -/
theorem Memory.mem_iff_read {m : Memory} (h : Memory.wf m) (k : Nat) (v : Word) :
    (k, v) ∈ m ↔
      k < 65536 ∧ v ≠ Config.unwrittenWord ∧ Memory.read m (BitVec.ofNat 16 k) = v := by
  have hread (hk : k < 65536) : Memory.read m (BitVec.ofNat 16 k) =
      (Cells.lookup m k).getD Config.unwrittenWord := by
    rw [Memory.read, BitVec.toNat_ofNat, Nat.mod_eq_of_lt hk]
  constructor
  · intro hmem
    obtain ⟨hk, hne⟩ := h.2 _ hmem
    exact ⟨hk, hne, by rw [hread hk, (Cells.lookup_eq_some_iff h.1 k v).2 hmem, Option.getD_some]⟩
  · rintro ⟨hk, hne, hv⟩
    rw [hread hk] at hv
    rw [← Cells.lookup_eq_some_iff h.1]
    cases hl : Cells.lookup m k with
    | none =>
      rw [hl] at hv
      exact absurd hv.symm hne
    | some u =>
      rw [hl] at hv
      exact congrArg some hv

/-- Settles O43: both memories list the same entries, in the same order. -/
theorem canonicalMemoryExtensional : Obligations.CanonicalMemoryExtensional := by
  intro m m' h h' hread
  refine Cells.eq_of_mem_iff h.1 h'.1 fun ⟨k, v⟩ => ?_
  rw [Memory.mem_iff_read h, Memory.mem_iff_read h', hread]

end Sys2Proof.Machine
end

section
/-! PROOFS. The table of memory accesses is complete: a step writes memory only at its write accesses,
and depends on memory only at its read accesses (spec R57, R60; log 15). -/

namespace Sys2Proof.Machine

open Sys2Proof.Safety

/-- The write access of an instruction is the store that it completes. -/
theorem write_mem_instrAccesses (i : Instr) (s : State) (a : Word) :
    .write a ∈ instrAccesses i s ↔ missedTrap i s = none ∧ ∃ v, stored i s = some (a, v) := by
  cases i
  case svc adr x =>
    cases h : TrapTable.target s.traps (s.effAddr adr x) <;>
      simp [instrAccesses, stored, missedTrap, h, eq_comm]
  all_goals simp [instrAccesses, stored, missedTrap, eq_comm]

/-- The write access of a step is the store that the fetched instruction completes. -/
theorem write_mem_stepAccesses {s : State} {i : Instr} (h : fetchInstr s = .ok i) (a : Word) :
    .write a ∈ stepAccesses s ↔ missedTrap i s = none ∧ ∃ v, stored i s = some (a, v) := by
  rw [stepAccesses, h, List.mem_cons, or_iff_right nofun]
  exact write_mem_instrAccesses i s a

/-- The accesses of a fetched instruction are accesses of the step. -/
theorem mem_stepAccesses_of_fetch {s : State} {i : Instr} {c : Access} (h : fetchInstr s = .ok i)
    (hc : c ∈ instrAccesses i s) : c ∈ stepAccesses s := by
  rw [stepAccesses, h]
  exact List.mem_cons_of_mem _ hc

/-- An instruction of two words reads its second word. -/
theorem operand_mem_instrAccesses {i : Instr} (s : State) (h : i.format.words ≠ 1) :
    .read (s.pr + 1) ∈ instrAccesses i s := by
  cases i
  case svc adr x =>
    cases ht : TrapTable.target s.traps (s.effAddr adr x) <;> simp [instrAccesses, ht]
  all_goals simp_all [instrAccesses, Instr.format, Format.words]

/-- Settles O44: the step stores what the tables give, and a stopped step stores nothing. -/
theorem writesAreListed : Obligations.WritesAreListed := by
  intro s
  constructor
  · intro t h a ha
    obtain ⟨i, hfetch, hmiss, rfl⟩ := completed_of_step h
    rw [write_mem_stepAccesses hfetch] at ha
    exact load_completed_of_not_stored fun v hv => ha ⟨hmiss, v, hv⟩
  · intro hstop a ha
    cases hfetch : fetchInstr s with
    | ok i =>
      obtain ⟨hmiss, -⟩ := (write_mem_stepAccesses hfetch a).1 ha
      obtain ⟨t, ht⟩ := everyOtherStepCompletes s i hfetch hmiss
      rw [ht] at hstop
      exact hstop
    | error e =>
      rw [stepAccesses, hfetch] at ha
      exact nomatch ha

/-- A fetch depends on the read accesses only: the second word is one of them when it is used, and a
rejection does not look at it (R60, R87). -/
theorem fetchInstr_congr {s s' : State} (hpr : s'.pr = s.pr)
    (h : ∀ a, .read a ∈ stepAccesses s → s'.load a = s.load a) : fetchInstr s' = fetchInstr s := by
  have hfirst : s'.load s.pr = s.load s.pr := h s.pr List.mem_cons_self
  have hs' : fetchInstr s' = decodeWords (s.load s.pr) (s'.load (s.pr + 1)) := by
    rw [fetchInstr, hpr, hfirst]
  rw [hs']
  cases hfetch : fetchInstr s with
  | ok i =>
    obtain ⟨hi, hwf⟩ := (decodeWords_eq_ok _ _ _).1 hfetch
    by_cases hw : i.format.words = 1
    · obtain ⟨j, hj, -, hji⟩ := instrOf_with_adr hi (s'.load (s.pr + 1))
      rw [hji hw] at hj
      exact (decodeWords_eq_ok _ _ _).2 ⟨hj, hwf⟩
    · rw [h _ (mem_stepAccesses_of_fetch hfetch (operand_mem_instrAccesses s hw))]
      exact hfetch
  | error e =>
    cases e with
    | illegalInstruction w =>
      obtain ⟨hop, rfl⟩ := (fetchInstr_eq_illegal s w).1 hfetch
      exact (illegalOpcodes _ _).2 hop
    | reservedField f =>
      obtain ⟨i, hi, hf⟩ := (decodeWords_eq_reserved _ _ _).1 hfetch
      exact decodeWords_reserved_of_instrOf hi hf _

/-- The state of the tables with another memory that agrees at the reads: the same but for memory. -/
theorem completed_with_mem {i : Instr} {s : State} {m : Memory}
    (h : SameInputs i s { s with mem := m }) :
    completed i { s with mem := m } =
      { completed i s with mem := (stored i s).elim m fun c => Memory.write m c.1 c.2 } :=
  h.completed

/-- Settles O45: the fetch and the instruction fetched have the same inputs in both states. -/
theorem readsAreListed : Obligations.ReadsAreListed := by
  intro s m hread
  have hfetch : fetchInstr { s with mem := m } = fetchInstr s := fetchInstr_congr rfl hread
  cases hi : fetchInstr s with
  | error e =>
    rw [step_of_reject hi, step_of_reject (hfetch.trans hi)]
    cases e <;> rfl
  | ok i =>
    have hsame : SameInputs i s { s with mem := m } :=
      { mem := fun a ha => hread a (mem_stepAccesses_of_fetch hi ha) }
    have hexec := exec_of_sameInputs hsame
      (fun t => { t with mem := (stored i s).elim m fun c => Memory.write m c.1 c.2 })
      (completed_with_mem hsame)
    rw [step_of_fetch hi, step_of_fetch (hfetch.trans hi), hexec]
    cases ht : exec i s with
    | fault e => rfl
    | refused e => rfl
    | next t =>
      obtain ⟨-, hmiss, rfl⟩ := (exec_eq_next_iff i s t).1 ht
      have hload : ∀ a, (.write a ∈ stepAccesses s →
          (completed i { s with mem := m }).load a = (completed i s).load a) ∧
          (.write a ∉ stepAccesses s → (completed i { s with mem := m }).load a = m.read a) := by
        refine fun a => ⟨fun ha => ?_, fun ha => ?_⟩
        · obtain ⟨-, v, hv⟩ := (write_mem_stepAccesses hi a).1 ha
          rw [load_completed_of_stored hv, load_completed_of_stored (hsame.stored.trans hv)]
        · rw [write_mem_stepAccesses hi] at ha
          exact load_completed_of_not_stored fun v hv => ha ⟨hmiss, v, hsame.stored.symm.trans hv⟩
      rw [completed_with_mem hsame] at hload
      exact ⟨_, rfl, rfl, rfl, rfl, rfl, rfl, hload⟩

end Sys2Proof.Machine
end

section
/-! PROOFS. The effect of LD from memory and of the four shifts (spec R101, R150 to R156). One rule says
what writing a shifted word does; the shifts differ in the word and in the bit that OF takes, and one
lemma for each says it for every count. -/

namespace Sys2Proof.Machine

open Sys2Proof.Safety

/-- LD from memory, of fields that name registers, completes (R101). -/
theorem exec_ld {r x : RegField} (adr : Word) (s : State) (hr : namesRegister r)
    (hx : namesRegister x) :
    exec (.ld r adr x) s = .next ((s.advance 2).setReg r (s.load (s.effAddr adr x))) :=
  checkFields_pair _ hr hx

/-- Settles O16: the register reads back the word loaded. -/
theorem ldEffect : Obligations.LdEffect := by
  intro r adr x s hr hx
  have hreg := (s.advance 2).reg_setReg_same r (s.load (s.effAddr adr x)) hr
  exact ⟨_, exec_ld adr s hr hx, hreg, rfl, rfl, writesOnlyReg_setReg s 2 r _⟩

section
variable {r x : RegField} (adr : Word) (s : State) (hr : namesRegister r) (hx : namesRegister x)
include hr hx

/-- SLA of fields that name registers completes (R151). -/
theorem exec_sla : exec (.sla r adr x) s =
    .next ((s.advance 2).writeResult r (shiftLeftA (s.reg r) (s.effAddr adr x).toNat)) :=
  checkFields_pair _ hr hx

/-- SRA of fields that name registers completes (R152). -/
theorem exec_sra : exec (.sra r adr x) s =
    .next ((s.advance 2).writeResult r (shiftRightA (s.reg r) (s.effAddr adr x).toNat)) :=
  checkFields_pair _ hr hx

/-- SLL of fields that name registers completes (R153). -/
theorem exec_sll : exec (.sll r adr x) s =
    .next ((s.advance 2).writeResult r (shiftLeftL (s.reg r) (s.effAddr adr x).toNat)) :=
  checkFields_pair _ hr hx

/-- SRL of fields that name registers completes (R154). -/
theorem exec_srl : exec (.srl r adr x) s =
    .next ((s.advance 2).writeResult r (shiftRightL (s.reg r) (s.effAddr adr x).toNat)) :=
  checkFields_pair _ hr hx

end

/-- Writing a shifted word and an overflow flag: the word in the register, SF and ZF of it, no other
data (R151 to R154). -/
theorem shiftResult_writeResult {r : RegField} (s : State) (k : Nat) (hr : namesRegister r)
    {y : Word} {m : Nat} {o : Bool} {p : Prop} (hy : y.toNat = m) (ho : o = true ↔ p) :
    ShiftResult r m p s ((s.advance k).writeResult r (y, flagsOf o y)) := by
  have hreg : ((s.advance k).writeResult r (y, flagsOf o y)).reg r = y :=
    (s.advance k).reg_setReg_same r y hr
  rw [ShiftResult, hreg]
  exact ⟨hy, flagsAre_of_fr rfl ho, writesOnlyReg_writeResult s k r _⟩

section
variable (v : Word) (n : Nat)

/-- A left shift multiplies by a power of two modulo 65536 (R150). -/
theorem toNat_shl : (shl v n).toNat = v.toNat * 2 ^ n % 65536 := by
  rw [shl, BitVec.toNat_shiftLeft, Nat.shiftLeft_eq]

/-- A right shift divides by a power of two (R150). -/
theorem toNat_shr : (shr v n).toNat = v.toNat / 2 ^ n := by
  rw [shr, BitVec.toNat_ushiftRight, Nat.shiftRight_eq_div_pow]

/-- The bit selector as arithmetic: 0 outside bits 0 to 15 (R10, R155). -/
theorem bitAt_eq_true_iff (i : Int) : bitAt v i = true ↔
    0 ≤ i ∧ i ≤ 15 ∧ v.toNat / 2 ^ i.toNat % 2 = 1 := by
  by_cases hi : 0 ≤ i ∧ i ≤ 15
  · rw [bitAt, if_pos hi, BitVec.getLsbD, Nat.testBit_eq_decide_div_mod_eq, decide_eq_true_iff]
    simp [hi]
  · rw [bitAt, if_neg hi]
    exact ⟨nofun, fun ⟨h0, h15, _⟩ => absurd ⟨h0, h15⟩ hi⟩

/-- OF of SLL: bit 15 of the word, whatever the count (R153). -/
theorem sllOverflow_iff : bitAt v 15 = true ↔ v.toNat / 2 ^ 15 = 1 := by
  have hv := v.isLt
  rw [bitAt_eq_true_iff, show (15 : Int).toNat = 15 from rfl]
  omega

/-- OF of SRL: bit 0 of the word, whatever the count (R154). -/
theorem srlOverflow_iff : bitAt v 0 = true ↔ v.toNat % 2 = 1 := by
  rw [bitAt_eq_true_iff]
  simp

/-- OF of SLA: bit `15 - n`, which there is for a count of at most 15 (R151, R155). -/
theorem slaOverflow_iff : (n != 0 && bitAt v (15 - n)) = true ↔
    n ≠ 0 ∧ n ≤ 15 ∧ v.toNat / 2 ^ (15 - n) % 2 = 1 := by
  rw [Bool.and_eq_true, bne_iff_ne, bitAt_eq_true_iff, show (15 - (n : Int)).toNat = 15 - n by omega]
  omega

/-- OF of SRA: bit `n - 1`, which there is for a count of at most 16 (R152, R155). -/
theorem sraOverflow_iff : (n != 0 && bitAt v (n - 1)) = true ↔
    n ≠ 0 ∧ n ≤ 16 ∧ v.toNat / 2 ^ (n - 1) % 2 = 1 := by
  rw [Bool.and_eq_true, bne_iff_ne, bitAt_eq_true_iff, show ((n : Int) - 1).toNat = n - 1 by omega]
  omega

end

section
variable (v : Word) {n : Nat}

/-- A left shift by 16 or more leaves nothing (R155). -/
theorem toNat_shl_long (hn : 16 ≤ n) : (shl v n).toNat = 0 := by
  rw [shl, BitVec.shiftLeft_eq_zero hn]
  rfl

/-- A right shift by 16 or more leaves nothing (R155). -/
theorem toNat_shr_long (hn : 16 ≤ n) : (shr v n).toNat = 0 := by
  rw [shr, BitVec.ushiftRight_eq_zero hn]
  rfl

/-- SLA by 16 or more reads its overflow outside the word (R155). -/
theorem slaOverflow_long (hn : 16 ≤ n) : (n != 0 && bitAt v (15 - n)) = true ↔ False := by
  rw [slaOverflow_iff]
  exact iff_of_false (fun ⟨_, hle, _⟩ => absurd hn (by omega)) id

/-- SRA by 16 reads bit 15, and by more than 16 outside the word (R155). -/
theorem sraOverflow_long (hn : 16 ≤ n) :
    (n != 0 && bitAt v (n - 1)) = true ↔ n = 16 ∧ v.toNat / 2 ^ 15 = 1 := by
  have hv := v.isLt
  rw [sraOverflow_iff]
  constructor
  · rintro ⟨-, hle, hbit⟩
    obtain rfl : n = 16 := Nat.le_antisymm hle hn
    omega
  · rintro ⟨rfl, hbit⟩
    omega

/-- The sign of a word shifted left by `n` is its bit `15 - n`. -/
theorem msb_shl (hn : n ≤ 15) : (shl v n).msb = bitAt v (15 - n) := by
  have hlt : n < 16 := Nat.lt_succ_of_le hn
  have hbit : (15 - (n : Int)).toNat = 15 - n := by omega
  rw [shl, BitVec.msb_shiftLeft, bitAt, if_pos (by omega), hbit, BitVec.getMsbD]
  simp [hlt]

/-- A word shifted right by 1 or more has the sign 0. -/
theorem msb_shr (hn : n ≠ 0) : (shr v n).msb = false := by
  rw [shr, BitVec.msb_ushiftRight]
  simp [Nat.pos_of_ne_zero hn]

end

/-- Settles O24: each shift writes its word and its bit, which are there for these counts. -/
theorem shiftEffect : Obligations.ShiftEffect := by
  rintro r adr x s _ _ hr hx rfl rfl hn
  have hsla := slaOverflow_iff (s.reg r) (s.effAddr adr x).toNat
  have hsra := sraOverflow_iff (s.reg r) (s.effAddr adr x).toNat
  rw [and_iff_right hn] at hsla
  rw [and_iff_right (Nat.le_succ_of_le hn)] at hsra
  refine ⟨?sla, ?sra, ?sll, ?srl⟩
  case sla =>
    exact ⟨_, exec_sla adr s hr hx, rfl, shiftResult_writeResult s 2 hr (toNat_shl _ _) hsla⟩
  case sra =>
    exact ⟨_, exec_sra adr s hr hx, rfl, shiftResult_writeResult s 2 hr (toNat_shr _ _) hsra⟩
  case sll =>
    exact ⟨_, exec_sll adr s hr hx, rfl,
      shiftResult_writeResult s 2 hr (toNat_shl _ _) (sllOverflow_iff _)⟩
  case srl =>
    exact ⟨_, exec_srl adr s hr hx, rfl,
      shiftResult_writeResult s 2 hr (toNat_shr _ _) (srlOverflow_iff _)⟩

/-- Settles O25: each shift writes 0, and the bits of SLA and SRA are mostly outside the word. -/
theorem longShiftEffect : Obligations.LongShiftEffect := by
  rintro r adr x s _ _ hr hx rfl rfl hn
  have hshl := toNat_shl_long (s.reg r) hn
  have hshr := toNat_shr_long (s.reg r) hn
  refine ⟨?sla, ?sra, ?sll, ?srl⟩
  case sla =>
    exact ⟨_, exec_sla adr s hr hx, rfl,
      shiftResult_writeResult s 2 hr hshl (slaOverflow_long _ hn)⟩
  case sra =>
    exact ⟨_, exec_sra adr s hr hx, rfl,
      shiftResult_writeResult s 2 hr hshr (sraOverflow_long _ hn)⟩
  case sll =>
    exact ⟨_, exec_sll adr s hr hx, rfl, shiftResult_writeResult s 2 hr hshl (sllOverflow_iff _)⟩
  case srl =>
    exact ⟨_, exec_srl adr s hr hx, rfl, shiftResult_writeResult s 2 hr hshr (srlOverflow_iff _)⟩

/-- Settles O50: the bit that leaves SLA last is the sign of its result, and SRA fills with zeros. -/
theorem arithmeticShiftFlags : Obligations.ArithmeticShiftFlags := by
  intro r adr x s hr hx hea
  have hn : (s.effAddr adr x).toNat ≠ 0 := toNat_ne hea
  refine ⟨⟨_, exec_sla adr s hr hx, fun hle => ?_⟩, _, exec_sra adr s hr hx, msb_shr _ hn⟩
  show ((s.effAddr adr x).toNat != 0 && bitAt _ _) = (shl _ _).msb
  rw [msb_shl _ hle, bne_iff_ne.2 hn, Bool.true_and]

end Sys2Proof.Machine
end

section
/-! PROOFS. Laws of two instructions: one after the other, and one against the other (spec R120, R140,
R180 to R183, R207, R208; 20_memory.md section 5). -/

namespace Sys2Proof.Machine

open Sys2Proof.Safety

/-- Entry followed at once by the return: back to the PR of the entry, with SP, registers and flags as
before it (R208). -/
theorem leave_enter (s : State) (n : Nat) (a : Word) :
    ((s.advance n).enter a).leave.pr = (s.advance n).pr ∧ ((s.advance n).enter a).leave.sp = s.sp ∧
      SameRegs s ((s.advance n).enter a).leave ∧ ((s.advance n).enter a).leave.fr = s.fr :=
  ⟨State.leave_enter_pr _ _, by simp, fun _ => rfl, rfl⟩

/-- Settles O46: the pushed word is the top that POP reads, and SP comes back. -/
theorem pushPopRoundTrip : Obligations.PushPopRoundTrip := by
  intro adr x r s hx hr
  have htop := (s.advance 2).top_push (s.effAddr adr x)
  have hsp := (s.advance 2).sp_dropTop_push (s.effAddr adr x)
  refine ⟨_, _, exec_push adr s hx, exec_pop _ hr, ?_, hsp, fun f hf => ?_, rfl⟩
  · rw [htop]
    exact State.reg_setReg_same _ r _ hr
  · exact State.reg_setReg_ne _ r f _ hf

/-- Settles O47: CALL and a hit of SVC are the same entry, from past their own words. -/
theorem enterReturnRoundTrip : Obligations.EnterReturnRoundTrip := by
  intro adr x s hx
  refine ⟨⟨_, _, exec_call adr s hx, exec_ret _, leave_enter s 2 _⟩, fun a ha => ?_⟩
  exact ⟨_, _, exec_svc_hit adr s hx ha, rfl, exec_ret _, leave_enter s 2 a⟩

/-- Truncation respects sums. -/
theorem trunc16_add (m n : Int) : trunc16 (m + n) = trunc16 m + trunc16 n := BitVec.ofInt_add m n

/-- Truncation respects differences. -/
theorem trunc16_sub (m n : Int) : trunc16 (m - n) = trunc16 m - trunc16 n := by
  rw [Int.sub_eq_add_neg, trunc16_add, BitVec.sub_eq_add_neg]
  exact congrArg (trunc16 m + ·) BitVec.ofInt_neg

/-- The signed reading truncates back to the word (R10). -/
@[simp] theorem trunc16_s16 (v : Word) : trunc16 (s16 v) = v := by
  rw [s16_eq_toInt]
  exact BitVec.ofInt_toInt

/-- The unsigned reading truncates back to the word (R10). -/
@[simp] theorem trunc16_u16 (v : Word) : trunc16 (u16 v) = v := by
  simp [trunc16, u16]

section
variable (s : State) (r : RegField)

/-- Results that truncate alike are written alike, up to OF. -/
theorem writeResult_narrow_eq {m n : Int} (h : trunc16 n = trunc16 m) (o o' : Bool) :
    s.writeResult r (narrow n o') = (s.writeResult r (narrow m o)).setFlags
      { (s.writeResult r (narrow m o)).fr with of := o' } := by
  rw [narrow, h]
  rfl

/-- Unsigned add writes what signed add writes, up to OF: both truncate to the sum of the words
(R120). -/
theorem writeResult_addL (a b : Word) : ∃ o, s.writeResult r (addL a b) =
    (s.writeResult r (addA a b)).setFlags { (s.writeResult r (addA a b)).fr with of := o } :=
  ⟨_, writeResult_narrow_eq s r (by simp [trunc16_add]) _ _⟩

/-- Unsigned subtract writes what signed subtract writes, up to OF: both truncate to the difference of
the words (R120). -/
theorem writeResult_subL (a b : Word) : ∃ o, s.writeResult r (subL a b) =
    (s.writeResult r (subA a b)).setFlags { (s.writeResult r (subA a b)).fr with of := o } :=
  ⟨_, writeResult_narrow_eq s r (by simp [trunc16_sub]) _ _⟩

end

/-- Settles O48: the signed and the unsigned form write the same word, and so the same SF and ZF. -/
theorem signedUnsignedDifferInOverflowOnly : Obligations.SignedUnsignedDifferInOverflowOnly := by
  intro r adr x s hr hx
  refine ⟨?add, ?sub, ?addRR, ?subRR⟩
  case add =>
    obtain ⟨o, ho⟩ := writeResult_addL (s.advance 2) r (s.reg r) (s.load (s.effAddr adr x))
    exact ⟨_, o, exec_adda adr s hr hx, ho ▸ exec_addl adr s hr hx⟩
  case sub =>
    obtain ⟨o, ho⟩ := writeResult_subL (s.advance 2) r (s.reg r) (s.load (s.effAddr adr x))
    exact ⟨_, o, exec_suba adr s hr hx, ho ▸ exec_subl adr s hr hx⟩
  case addRR =>
    obtain ⟨o, ho⟩ := writeResult_addL (s.advance 1) r (s.reg r) (s.reg x)
    exact ⟨_, o, exec_addaRR s hr hx, ho ▸ exec_addlRR s hr hx⟩
  case subRR =>
    obtain ⟨o, ho⟩ := writeResult_subL (s.advance 1) r (s.reg r) (s.reg x)
    exact ⟨_, o, exec_subaRR s hr hx, ho ▸ exec_sublRR s hr hx⟩

/-- Two words further and one more is three words further. -/
theorem add_two_add_one (a : Word) : a + 2 + 1 = a + 3 := by
  rw [BitVec.add_assoc]
  rfl

section
variable {x : RegField} (adr : Word) (s : State) {f : Flags}

/-- A jump after a register compare goes to the effective address of before the compare, or past both
instructions (R170). -/
theorem pr_jumpWhen_after_compare {cond : Bool} {p : Prop} [Decidable p] (hcond : cond = true ↔ p) :
    (((s.advance 1).setFlags f).jumpWhen cond adr x).pr =
      if p then s.effAddr adr x else s.pr + 3 := by
  have hnext : s.pr + 1 + 2 = s.pr + 3 := by rw [BitVec.add_assoc]; rfl
  rw [State.jumpWhen_eq _ adr x hcond, ← hnext]
  rfl

/-- After flags that tell `lt` and `eq` apart, JMI, JZE and JPL jump on `lt`, on `eq` and on neither
(R171, R173, R175). -/
theorem jumps_after_compare {lt eq gt : Prop} [Decidable lt] [Decidable eq] [Decidable gt]
    (hx : namesRegister x) (hsf : f.sf = true ↔ lt) (hzf : f.zf = true ↔ eq)
    (hgt : gt ↔ ¬ lt ∧ ¬ eq) (hne : lt → ¬ eq) :
    ¬ (f.sf = true ∧ f.zf = true) ∧
    ∃ m z p, exec (.jmi adr x) ((s.advance 1).setFlags f) = .next m ∧
      exec (.jze adr x) ((s.advance 1).setFlags f) = .next z ∧
      exec (.jpl adr x) ((s.advance 1).setFlags f) = .next p ∧
      m.pr = (if lt then s.effAddr adr x else s.pr + 3) ∧
      z.pr = (if eq then s.effAddr adr x else s.pr + 3) ∧
      p.pr = (if gt then s.effAddr adr x else s.pr + 3) := by
  have hplus : (!f.sf && !f.zf) = true ↔ gt := by
    rw [hgt, ← hsf, ← hzf, jplCondition_iff, Bool.not_eq_true, Bool.not_eq_true]
  exact ⟨fun ⟨hs, hz⟩ => hne (hsf.1 hs) (hzf.1 hz), _, _, _, exec_jmi adr _ hx, exec_jze adr _ hx,
    exec_jpl adr _ hx, pr_jumpWhen_after_compare adr s hsf, pr_jumpWhen_after_compare adr s hzf,
    pr_jumpWhen_after_compare adr s hplus⟩

end

/-- Settles O49: the flags of each compare tell its order and equality. -/
theorem compareThenJump : Obligations.CompareThenJump := by
  intro r1 r2 x adr s h1 h2 hx
  constructor
  · obtain ⟨-, hsf, hzf⟩ := cmpA_flags (s.reg r1) (s.reg r2)
    exact ⟨_, exec_cpaRR s h1 h2, jumps_after_compare adr s hx hsf (hzf.trans BitVec.toInt_inj.symm)
      (by omega) (by omega)⟩
  · obtain ⟨-, hsf, hzf⟩ := cmpL_flags (s.reg r1) (s.reg r2)
    exact ⟨_, exec_cplRR s h1 h2, jumps_after_compare adr s hx hsf (hzf.trans BitVec.toNat_inj.symm)
      (by omega) (by omega)⟩

/-- A word stored just past a two-word instruction is the one fetched after it. -/
theorem fetchInstr_store_next (s : State) (v : Word) :
    fetchInstr ((s.advance 2).store (s.pr + 2) v) = decodeWords v (s.load (s.pr + 3)) := by
  have hne : s.pr + 3 ≠ s.pr + 2 := by simp
  have hfirst : ((s.advance 2).store (s.pr + 2) v).load (s.pr + 2) = v := State.load_store_same _ _ _
  have hsecond : ((s.advance 2).store (s.pr + 2) v).load (s.pr + 2 + 1) = s.load (s.pr + 3) := by
    rw [add_two_add_one, State.load_store_ne _ _ _ _ hne, State.load_advance]
  exact congrArg₂ decodeWords hfirst hsecond

/-- Settles O51: the fetch after the ST reads the word stored. -/
theorem storedWordIsFetched : Obligations.StoredWordIsFetched := by
  intro r adr x s i hr hx hea hdec
  refine ⟨_, exec_st adr s hr hx, step_of_fetch ?_⟩
  rw [hea, fetchInstr_store_next, hdec]

end Sys2Proof.Machine
end

section
/-! PROOFS. The host: placing an instruction, the operations on registers, memory and traps, and the
driven run (spec R45, R185, R233 to R242; log 16, log 17, log 21). -/

namespace Sys2Proof.Machine

open Sys2Proof.Safety

/-- Settles O52: the trap table after reset has no entry to find. -/
theorem resetHasNoTraps : Obligations.ResetHasNoTraps :=
  fun adr _ hx => exec_svc_miss adr State.reset hx rfl

/-- Placed words are the two that the next fetch decodes. -/
theorem fetchInstr_placeWords (s : State) (w adr : Word) :
    fetchInstr (s.placeWords w adr) = decodeWords w adr := by
  have hne : s.pr ≠ s.pr + 1 := by simp
  have hfirst : (s.placeWords w adr).load s.pr = w := by
    rw [State.placeWords, State.load_store_ne _ _ _ _ hne, State.load_store_same]
  have hsecond : (s.placeWords w adr).load (s.pr + 1) = adr := State.load_store_same _ _ _
  exact congrArg₂ decodeWords hfirst hsecond

/-- A row of bits decodes as its two words do. -/
theorem decodeWords_of_decodeTableWord {nbits w : Nat} {i : Instr}
    (h : decodeTableWord nbits w = some i) :
    decodeWords (BitVec.ofNat 16 (w % 2 ^ nbits)) (BitVec.ofNat 16 (w % 2 ^ nbits / 65536)) =
      .ok i := by
  unfold decodeTableWord at h
  dsimp only at h
  split at h
  next hdec => rw [hdec, Option.some.inj h]
  next => cases h

/-- Settles O53: the next fetch decodes the placed words, and the placing is two stores. -/
theorem placedInstructionRuns : Obligations.PlacedInstructionRuns := by
  intro s nbits w i h
  have hfetch := (fetchInstr_placeWords s _ _).trans (decodeWords_of_decodeTableWord h)
  refine ⟨step_of_fetch hfetch, rfl, rfl, rfl, rfl, rfl, fun a ha ha' => ?_⟩
  exact (State.load_store_ne _ _ _ _ ha').trans (State.load_store_ne _ _ _ _ ha)

/-- The field of a register index below 8 is that index. -/
theorem toNat_indexField {i : Nat} (hi : i < 8) : (BitVec.ofNat 4 i).toNat = i := by
  rw [BitVec.toNat_ofNat]
  omega

/-- Settles O54: the host writes one register, PR or SP, and reads registers below 8 only. -/
theorem hostRegisterOperations : Obligations.HostRegisterOperations := by
  refine ⟨?inRange, ?outOfRange, ?prSp⟩
  case inRange =>
    intro i v s hi
    have hnames : namesRegister (BitVec.ofNat 4 i) := (toNat_indexField hi).trans_lt hi
    refine ⟨_, _, if_pos hi, if_pos hi, ?_, fun j hj hne => ?_, rfl, rfl, rfl, fun _ => rfl, rfl⟩
    · rw [State.reg_setReg_same _ _ _ hnames, toNat_trunc16]
    · have hfield : BitVec.ofNat 4 j ≠ BitVec.ofNat 4 i := fun e => hne <| by
        rw [← toNat_indexField hj, e, toNat_indexField hi]
      rw [hostGetRegister, hostGetRegister, if_pos hj, if_pos hj, State.reg_setReg_ne _ _ _ _ hfield]
  case outOfRange =>
    exact fun i v s hi => ⟨if_neg (Nat.not_lt.2 hi), if_neg (Nat.not_lt.2 hi)⟩
  case prSp =>
    exact fun v s => ⟨toNat_trunc16 v, toNat_trunc16 v, rfl, rfl⟩

/-- Passing no word changes nothing. -/
@[simp] theorem State.advance_zero (s : State) : s.advance 0 = s := by
  simp [State.advance]

/-- Settles O55: the host enters as a call does, but from the PR it finds. -/
theorem hostCallIntoEffect : Obligations.HostCallIntoEffect := by
  intro addr s
  have hpush := pushResult_enter s 0 (trunc16 addr)
  rw [State.advance_zero] at hpush
  exact ⟨toNat_trunc16 addr, hpush⟩

/-- The words after the first lie one further, modulo 65536. -/
theorem add_one_add_ofNat (o : Word) (k : Nat) :
    o + 1 + BitVec.ofNat 16 k = o + BitVec.ofNat 16 (k + 1) := by
  rw [BitVec.add_assoc, Nat.add_comm k 1, BitVec.ofNat_add]
  rfl

/-- Loading an image leaves every address that is none of its own (R54). -/
theorem load_hostLoadImage_ne (o : Word) (ws : List Word) (s : State) (b : Word)
    (hb : ∀ k < ws.length, b ≠ o + BitVec.ofNat 16 k) :
    (hostLoadImage o ws s).load b = s.load b := by
  induction ws generalizing o s with
  | nil => rfl
  | cons w ws ih =>
    have hfirst : b ≠ o := by simpa using hb 0 (Nat.zero_lt_succ _)
    have hrest : ∀ k < ws.length, b ≠ o + 1 + BitVec.ofNat 16 k := fun k hk => by
      rw [add_one_add_ofNat]
      exact hb (k + 1) (Nat.succ_lt_succ hk)
    rw [hostLoadImage, ih (o + 1) _ hrest, State.load_store_ne _ _ _ _ hfirst]

/-- Fewer than 65536 words further is another address. -/
theorem ne_add_ofNat_succ (o : Word) {k : Nat} (hk : k + 1 < 65536) :
    o ≠ o + BitVec.ofNat 16 (k + 1) := fun e => by
  have hzero := congrArg BitVec.toNat (BitVec.self_eq_add_right.1 e)
  rw [BitVec.toNat_ofNat, Nat.mod_eq_of_lt hk] at hzero
  exact nomatch hzero

/-- An image of at most 65536 words reads back word by word: no later word overwrites an earlier one
(R54). -/
theorem load_hostLoadImage (o : Word) (ws : List Word) (s : State) (k : Nat) (h : k < ws.length)
    (hlen : ws.length ≤ 65536) : (hostLoadImage o ws s).load (o + BitVec.ofNat 16 k) = ws[k] := by
  induction ws generalizing o s k with
  | nil => cases h
  | cons w ws ih =>
    rw [List.length_cons] at hlen h
    cases k with
    | zero =>
      have hfirst : ∀ j < ws.length, o ≠ o + 1 + BitVec.ofNat 16 j := fun j hj => by
        rw [add_one_add_ofNat]
        exact ne_add_ofNat_succ o (by omega)
      rw [hostLoadImage, BitVec.add_zero, load_hostLoadImage_ne _ _ _ _ hfirst]
      exact State.load_store_same s o w
    | succ k =>
      rw [← add_one_add_ofNat]
      exact ih (o + 1) _ k (Nat.lt_of_succ_lt_succ h) (by omega)

/-- Loading an image changes memory alone. -/
theorem hostLoadImage_eq (o : Word) (ws : List Word) (s : State) :
    hostLoadImage o ws s = { s with mem := (hostLoadImage o ws s).mem } := by
  induction ws generalizing o s with
  | nil => rfl
  | cons w ws ih => exact ih (o + 1) (s.store o w)

/-- Settles O56: pokes and images are stores, and the trap table is written by `TrapTable.set`. -/
theorem hostMemoryAndTraps : Obligations.HostMemoryAndTraps := by
  refine ⟨?poke, ?image, ?imageFrame, ?trap⟩
  case poke =>
    intro a v s
    refine ⟨?_, fun b hb => State.load_store_ne _ _ _ _ hb, rfl⟩
    rw [hostPeek, hostPoke, State.load_store_same, toNat_trunc16]
  case image => exact load_hostLoadImage
  case imageFrame => exact fun o ws s => ⟨load_hostLoadImage_ne o ws s, hostLoadImage_eq o ws s⟩
  case trap =>
    exact fun n a s => ⟨TrapTable.target_set_same _ _ _,
      fun k hk => TrapTable.target_set_ne _ _ k _ hk, rfl⟩

/-- A run of one step more begins with the step. -/
theorem run_of_next (M : Host.Core) {s t : M.State} (k : Nat) (h : M.step s = .next t) :
    M.run (k + 1) s = M.run k t := by
  rw [Host.Core.run, h]

section
variable {sentinel : Word} {k : Nat} {s : State}

/-- At the sentinel a driven run ends, whatever the limit (R242). -/
theorem drive_at_sentinel (hs : s.pr = sentinel) : drive sentinel k s = .sentinel s := by
  cases k <;> rw [drive, if_pos hs]

/-- Elsewhere a driven run goes on from the next state (R242). -/
theorem drive_of_next (hs : s.pr ≠ sentinel) {t : State} (h : step s = .next t) :
    drive sentinel (k + 1) s = drive sentinel k t := by
  rw [drive, if_neg hs, h]

/-- A fatal step ends a driven run in the state before it (R242). -/
theorem drive_of_fault (hs : s.pr ≠ sentinel) {f : Fault} (h : step s = .fault f) :
    drive sentinel (k + 1) s = .fatal f s := by
  rw [drive, if_neg hs, h]

/-- A refused step ends a driven run in the state before it. -/
theorem drive_of_refused (hs : s.pr ≠ sentinel) {r : Refusal} (h : step s = .refused r) :
    drive sentinel (k + 1) s = .refused r s := by
  rw [drive, if_neg hs, h]

end

/-- Settles O57, by induction on the limit. -/
theorem driveEnds : Obligations.DriveEnds := by
  intro sentinel k s
  refine ⟨drive_at_sentinel, ?_⟩
  induction k generalizing s with
  | zero =>
    by_cases hs : s.pr = sentinel
    · rw [drive_at_sentinel hs]
      exact ⟨by rintro _ ⟨⟩; exact hs, nofun, nofun⟩
    · rw [drive, if_neg hs]
      exact ⟨nofun, nofun, by rintro _ ⟨⟩; exact ⟨hs, rfl⟩⟩
  | succ k ih =>
    by_cases hs : s.pr = sentinel
    · rw [drive_at_sentinel hs]
      exact ⟨by rintro _ ⟨⟩; exact hs, nofun, nofun⟩
    · cases hstep : step s with
      | next t =>
        rw [drive_of_next hs hstep, run_of_next Sys2Proof.core k hstep]
        exact ih t
      | fault f =>
        rw [drive_of_fault hs hstep]
        exact ⟨nofun, by rintro _ _ ⟨⟩; exact ⟨hstep, hs⟩, nofun⟩
      | refused r =>
        rw [drive_of_refused hs hstep]
        exact ⟨nofun, nofun, nofun⟩

end Sys2Proof.Machine
end
